-- ==== Sys2Proof/Word.lean ====
section
/-! DEFINITION. Words, line levels and pins (spec 00 sections 0.3, 0.6; spec 10 section 10.1). -/

namespace Sys2Proof

abbrev Nibble := BitVec 4
abbrev Byte := BitVec 8
abbrev Word16 := BitVec 16
abbrev Word32 := BitVec 32

/-- A 12-bit intensity or height code of one cell (section 3.1). -/
abbrev Sample := BitVec 12

/-- The two levels of the roof link (R171). -/
inductive Level where
  | dominant
  | recessive
  deriving DecidableEq, Repr

/-- The level of a single-ended pin. -/
inductive Pin where
  | low
  | high
  deriving DecidableEq, Repr

/-- The direction of travel (R1). -/
inductive Direction where
  | forward
  | reverse
  deriving DecidableEq, Repr

end Sys2Proof
end

