-- ==== Sys2Proof/Syntax.lean ====
section
/-! DEFINITION. The commands: one constructor for each row of spec/opcode_table.json. The table gives no operands;
a command carries what its event brings from outside the part (log 4). -/

namespace Sys2Proof

inductive Instr where
  /-- RESET (R193): power-on or a low level on RESET. -/
  | reset
  /-- RESET_END (R194), with the levels of STN2, STN1 and STN0, STN0 in bit 0. -/
  | resetEnd (straps : BitVec 3)
  /-- CONFIG_READ_START (R195). -/
  | configReadStart
  /-- CONFIG_READ_DONE (R196), with the levels of CFG_DI sampled at the rising edges of CFG_CLK, in order (R195). -/
  | configReadDone (levels : List Pin)
  /-- LOADING_END (R201). -/
  | loadingEnd
  /-- TICK (R1), with the level of DIR at the edge. -/
  | tick (dir : Pin)
  /-- FRAME_TRIGGER (R4). -/
  | frameTrigger
  /-- SLOT_CYCLE_END (R8). -/
  | slotCycleEnd
  /-- EXPOSE_RISE (R11). -/
  | exposeRise
  /-- EXPOSE_FALL (R9). -/
  | exposeFall
  /-- RATE_WINDOW_END (R6). -/
  | rateWindowEnd
  /-- POLE (R14). -/
  | pole
  /-- ROW_ARRIVAL (R35), with the nibbles sampled on SRD3 to SRD0 while SRF was high (R191). -/
  | rowArrival (nibbles : List Nibble)
  /-- DARK_ROW_DONE (R43). -/
  | darkRowDone
  /-- ROW_ASSOCIATION (R76). -/
  | rowAssociation
  /-- LIT_ROW_END (R57). -/
  | litRowEnd
  /-- WEAR_COMPLETE (R138). -/
  | wearComplete
  /-- YIELD_RECLAIM (R116), with the entry index of the reclaimed entry. -/
  | yieldReclaim (entry : Nat)
  /-- NEIGHBOUR_ABSENT (R101), with the station of the record. -/
  | neighbourAbsent (station : Nat)
  /-- NOT_TAKING_EXPIRE (R117), with the station of the record. -/
  | notTakingExpire (station : Nat)
  /-- SETTLE_END (R29). -/
  | settleEnd
  /-- ATTITUDE_HELD (R159). -/
  | attitudeHeld
  /-- ATTITUDE_LOST (R159). -/
  | attitudeLost
  /-- HEADSTATE_TIMER (R183). -/
  | headstateTimer
  /-- TELEGRAM_RECEIVED (R176), with the levels read after the start bit, in order. -/
  | telegramReceived (levels : List Level)
  /-- TELEGRAM_DISCARD (R178). -/
  | telegramDiscard
  /-- RUN_TELEGRAM (R202). -/
  | runTelegram
  /-- ATTITUDE_TELEGRAM (R158). -/
  | attitudeTelegram
  /-- HEADSTATE_TELEGRAM (R100). -/
  | headstateTelegram
  /-- ADOPTION (R109). -/
  | adoption
  /-- SIGHTING_TELEGRAM (R112). -/
  | sightingTelegram
  /-- TRANSMIT_START (R174). -/
  | transmitStart
  /-- ARBITRATION_LOST (R174). -/
  | arbitrationLost
  /-- ARBITRATION_WON (R174). -/
  | arbitrationWon
  /-- TRANSMIT_ERROR (R175). -/
  | transmitError
  /-- TRANSMIT_COMPLETE (R175). -/
  | transmitComplete
  /-- LINE_IDLE (R176). -/
  | lineIdle
  /-- START_BIT (R176). -/
  | startBit
  /-- SRF_RISE (R58). -/
  | srfRise
  deriving DecidableEq, Repr

end Sys2Proof
end

