-- ==== Sys2Proof/Decode.lean ====
section
/-! DEFINITION. The commands a word spells. No row of spec/opcode_table.json gives bits (spec 98: n_rows_with_fixed 0
and n_rows_with_fields 0), so no word spells a command. -/

namespace Sys2Proof

/-- The command that `w` spells by the table's bits: none, for every word, since no row gives bits. -/
def decodeTableWord (_nbits _w : Nat) : Option Instr := none

end Sys2Proof
end

