-- ==== Sys2Proof/Machine/Arith.lean ====
section
/-! DEFINITION. Rounding, clamping, frame ranges and byte order (spec 00 section 0.8, spec 10 section 10.8). -/

namespace Sys2Proof.Machine

/-- A quotient of signed quantities: nearest integer, a half away from zero (section 0.8). -/
def roundHalfAway (a : Int) (d : Nat) : Int :=
  if 0 ≤ a then (2 * a + d) / (2 * d) else -((2 * (-a) + d) / (2 * d))

/-- A quotient of quantities that cannot be negative: nearest integer, a half up (section 0.8). -/
def roundHalfUp (a d : Nat) : Nat := (2 * a + d) / (2 * d)

/-- A value clamped to a range (section 0.8). -/
def clampInt (lo hi x : Int) : Int := if x < lo then lo else if hi < x then hi else x

/-- A value that cannot be negative, clamped to a range (section 0.8). -/
def clampNat (lo hi x : Nat) : Nat := if x < lo then lo else if hi < x then hi else x

/-- The bits of the square root of `n` from bit `b - 1` down, over the root `r` found so far. -/
def isqrtFrom (n : Nat) : Nat → Nat → Nat
  | 0, r => r
  | b + 1, r => isqrtFrom n b (if (r + 2 ^ b) * (r + 2 ^ b) ≤ n then r + 2 ^ b else r)

/-- The floor of the square root (section 0.8). -/
def isqrt (n : Nat) : Nat := isqrtFrom n (Nat.log2 n / 2 + 1) 0

/-- The lit and dark frames (R10): a frame is dark when its index mod 8 is 7. -/
def isDark (f : Word32) : Bool := f.toNat % 8 == 7

/-- Frame `f` lies from frame `a` to frame `b`, both included, on the wrapping frame index (section 7.1, R5). -/
def inFrames (f a b : Word32) : Bool := (f - a).toNat ≤ (b - a).toNat

/-- The number of frames from `a` to `b`, both included (R130). -/
def framesFrom (a b : Word32) : Nat := (b - a).toNat + 1

/-- A number as `n` bytes, high byte first, signed numbers in two's complement (section 10.8). -/
def bytesOf (n : Nat) (x : Int) : List Byte :=
  (List.range n).map fun k => BitVec.ofInt 8 (x / (256 ^ (n - 1 - k) : Nat))

/-- The unsigned number that bytes spell, high byte first (section 10.8). -/
def natOf (bs : List Byte) : Nat := bs.foldl (fun acc b => acc * 256 + b.toNat) 0

/-- The signed number that bytes spell in two's complement, high byte first (section 10.8). -/
def intOf (bs : List Byte) : Int :=
  let m := 256 ^ bs.length
  let v := natOf bs
  if 2 * v < m then v else (v : Int) - m

/-- `n` bytes of a body from offset `at`; bytes beyond its end read 0 (only accepted lengths are read, R178). -/
def field (body : List Byte) (offset n : Nat) : List Byte :=
  (List.range n).map fun k => body.getD (offset + k) 0

end Sys2Proof.Machine
end

