-- ==== Sys2Proof/Config.lean ====
section
/-! DEFINITION. What is fixed for one machine: the capacities of the part and the shape of an accepted start-up
block (spec 10 R192, spec 11 R198 to R201). No value of the spec is left without a stated result, so there is no
free value here. -/

namespace Sys2Proof.Config

/-- Cells in a profile row (section 0.7). -/
abbrev cells : Nat := 2048
/-- Capacity of the expected-row list (R36). -/
abbrev expectedRows : Nat := 2
/-- Capacity of the frame queue (R41). -/
abbrev frameQueue : Nat := 4
/-- Candidates kept of a row (R54). -/
abbrev candidates : Nat := 8
/-- Positions of the entry table (R69). -/
abbrev entries : Nat := 8
/-- Lanes a block can bind (R129). -/
abbrev lanes : Nat := 8
/-- Strip rows a lane can hold (R134). -/
abbrev stripRows : Nat := 28
/-- Columns of a strip row (R134). -/
abbrev columns : Nat := 64
/-- Telegrams the transmit queue can hold (R179). -/
abbrev transmitQueue : Nat := 12
/-- Receive buffers (R177). -/
abbrev receiveBuffers : Nat := 2
/-- Bytes of the start-up block (R192). -/
abbrev startupBytes : Nat := 128

end Sys2Proof.Config

namespace Sys2Proof

/-- An exclusion window (R46). -/
structure Window where
  enabled : Bool
  base : Nat
  mask : Nat
  deriving DecidableEq, Repr

/-- A governor rule (R59). `source` is 0 for QUEUE and 1 for RATE (R192); `threshold` and `keep` as R59 gives. -/
structure GovernorRule where
  enabled : Bool
  source : Nat
  threshold : Nat
  keep : Nat
  deriving DecidableEq, Repr

/-- A wire class (R143): radius r, nominal height Hnom, wear limit Hmin and stagger limit, all in µm. -/
structure WireClass where
  radius : Nat
  nominal : Nat
  wearLimit : Nat
  staggerLimit : Nat
  deriving DecidableEq, Repr

/-- The fields of a start-up block (R192). The accepted block has them in the ranges of R198 to R200. -/
structure Startup where
  mountOffset : Int
  refHeight : Nat
  pitch : Nat
  exposure : Nat
  slot : Nat
  bandLow : Nat
  bandHigh : Nat
  tDet : Nat
  tFace : Nat
  tStray : Nat
  windows : List Window
  rules : List GovernorRule
  classes : List WireClass
  alertBelowLimit : Bool
  alertStagger : Bool
  deriving DecidableEq, Repr

end Sys2Proof
end

