-- ==== Sys2Proof/Machine/State.lean ====
section
/-! DEFINITION. The state of one head, as plain data, and the state after reset. -/

namespace Sys2Proof.Machine

/-! ### Distance Unit -/

/-- A pole mark (R14, R15). -/
structure PoleMark where
  distance : Word32
  frame : Word32
  overwritten : Bool
  deriving DecidableEq, Repr

/-- The Distance Unit (Chapter 1). `mark` is the pole mark register, none when empty. -/
structure DistanceUnit where
  distance : Word32
  direction : Direction
  downCounter : Nat
  frameIndex : Word32
  mark : Option PoleMark
  rateRunning : Nat
  rateLast : Nat
  deriving DecidableEq, Repr

/-! ### Exposure Controller -/

inductive EcState where
  | steady
  | settling
  deriving DecidableEq, Repr

/-- How far the exposure of a slot cycle has come. -/
inductive ExposurePhase where
  | waiting
  | exposing
  | exposed
  deriving DecidableEq, Repr

/-- A slot cycle in progress (R8, R9): the frame it exposes, the slot it took, the times in µs after its trigger at
which EXPOSE rises and falls, and how far it has come. -/
structure SlotCycle where
  frame : Word32
  slot : Nat
  riseAt : Nat
  fallAt : Nat
  phase : ExposurePhase
  deriving DecidableEq, Repr

/-- The Exposure Controller (Chapters 1 and 2) with the pins EXPOSE and LASER. -/
structure ExposureController where
  currentSlot : Nat
  pendingSlot : Option Nat
  state : EcState
  settleCount : Nat
  strayStreak : Nat
  cycle : Option SlotCycle
  expose : Pin
  laser : Pin
  deriving DecidableEq, Repr

/-! ### Front End -/

/-- The class of a frame (Chapter 3). -/
inductive FrameClass where
  | dark
  | full
  | gateOnly
  deriving DecidableEq, Repr

/-- An entry of the expected-row list (R36). -/
structure ExpectedRow where
  frame : Word32
  cls : FrameClass
  deriving DecidableEq, Repr

/-- One cell of a raw row (section 3.1). -/
structure RowCell where
  intensity : Sample
  height : Sample
  deriving DecidableEq, Repr

/-- A row waiting in the frame queue (R41). -/
structure QueuedRow where
  frame : Word32
  cls : FrameClass
  cells : List RowCell
  deriving DecidableEq, Repr

/-- On which side of the sector a candidate is clipped (R52). -/
inductive Clipped where
  | no
  | lowSide
  | highSide
  deriving DecidableEq, Repr

/-- A candidate (R54); its candidate index is its place in the candidate list. -/
structure Candidate where
  left : Nat
  right : Nat
  centre : Nat
  peak : Nat
  height : Nat
  clipped : Clipped
  deriving DecidableEq, Repr

/-- A prediction and its gate, as taken for a GATE_ONLY search (R56). `seq` is the creation sequence of its entry, by
which the association tells the entries that were searched for (R79). -/
structure Gate where
  x : Int
  width : Int
  seq : Word32
  deriving DecidableEq, Repr

/-- The row in process (R42). `cells` is the raw row as it was received. When the processed row of a lit row has been
formed, `processed` holds it, `heights` the height codes, and `cells` is empty (R48); these and `candidates` stay until
the release (R57). `associated` tells that the Track Table has treated the row. -/
structure RowInProcess where
  frame : Word32
  cls : FrameClass
  cells : List RowCell
  gates : List Gate
  heights : List Sample
  processed : List Nat
  candidates : List Candidate
  associated : Bool
  deriving DecidableEq, Repr

/-- The Front End (Chapter 3). `receiving` tells that SRF has risen and the cells of a row are being counted. -/
structure FrontEnd where
  receiving : Bool
  expected : List ExpectedRow
  queue : List QueuedRow
  inProcess : Option RowInProcess
  background : List Sample
  deriving DecidableEq, Repr

/-! ### Track Table -/

/-- The states of a non-empty entry (R69). EMPTY is the absence of an entry. -/
inductive EntryState where
  | tentative
  | owned
  | coasting
  | watched
  | yielded
  deriving DecidableEq, Repr

/-- The station and tag under which an adopted wire was known (R69). -/
structure Origin where
  station : Nat
  tag : Byte
  deriving DecidableEq, Repr

/-- A non-empty track entry (R69), with the yield target and reclaim mark of R106. -/
structure Entry where
  state : EntryState
  tag : Byte
  seq : Word32
  x : Int
  v : Int
  hits : Nat
  misses : Nat
  height : Nat
  origin : Option Origin
  yieldAge : Nat
  sharedStreak : Nat
  partner : Option Nat
  lane : Option Nat
  yieldTarget : Option Nat
  reclaimMark : Bool
  deriving DecidableEq, Repr

/-- An own zone [L, R), with the station that set each boundary, none where it is a sector edge (R103). -/
structure Zone where
  left : Int
  right : Int
  leftSetBy : Option Nat
  rightSetBy : Option Nat
  deriving DecidableEq, Repr

/-- The Track Table (Chapter 5). Position i of `entries` is entry index i, none when EMPTY. -/
structure TrackTable where
  entries : List (Option Entry)
  nextTag : Byte
  creationSeq : Word32
  zone : Zone
  deriving DecidableEq, Repr

/-! ### Neighbour List -/

inductive Presence where
  | unknown
  | present
  | absent
  deriving DecidableEq, Repr

/-- A record of the Neighbour List (R99). `heldBack` tells that the station is held back from bounding the own zone
(section 0.4, R117); it is set with the not-taking count and cleared when the count has run out (log 8). -/
structure Neighbour where
  state : Presence
  mountOffset : Option Int
  slot : Option Nat
  age : Nat
  notTaking : Nat
  heldBack : Bool
  deriving DecidableEq, Repr

/-! ### Strip Store and Wear Unit -/

inductive LaneStatus where
  | taking
  | stopped
  | done
  deriving DecidableEq, Repr

/-- What the Stagger Unit has accumulated into a lane (R164). -/
structure Accumulation where
  staggerSum : Int
  staggerMin : Option Int
  staggerMax : Option Int
  lateralSum : Int
  heightSum : Nat
  attHeld : Bool
  uncorrected : Bool
  clamped : Bool
  deriving DecidableEq, Repr

/-- A lane record (R128). `strips` holds its strip rows in order of row position, so n is its length (R134,
log 17). -/
structure Lane where
  slot : Nat
  tag : Byte
  origin : Option Origin
  firstFrame : Word32
  status : LaneStatus
  strips : List (List Nat)
  hitFrames : Nat
  skipped : Nat
  absent : Nat
  acc : Accumulation
  crossing : Bool
  ended : Bool
  handed : Bool
  yieldedDup : Bool
  reclaimed : Bool
  deriving DecidableEq, Repr

/-- What a close fixes (R130). -/
structure Closing where
  lastFrame : Word32
  distance : Word32
  deriving DecidableEq, Repr

/-- A block record (section 7.1). `bank` is none on a starved block; `closing` is none while the block is open. -/
structure Block where
  seq : Word16
  run : Word16
  cls : Nat
  openFrame : Word32
  openDistance : Word32
  closing : Option Closing
  bank : Option Nat
  lanes : List Lane
  ambient : Bool
  decimated : Bool
  starved : Bool
  short : Bool
  deriving DecidableEq, Repr

/-- The state of a bank (R137). A FILLING bank names its block by sequence, the block being open or settling; a
WAITING or COMPUTING bank holds its settled block. -/
inductive Bank where
  | free
  | filling (seq : Word16)
  | waiting (block : Block)
  | computing (block : Block)
  deriving DecidableEq, Repr

/-- The Strip Store and the Wear Unit (Chapters 7 and 8). `computing` is the bank the Wear Unit computes. -/
structure StripStore where
  openBlock : Option Block
  settling : List Block
  blockSeq : Word16
  banks : List Bank
  computing : Option Nat
  deriving DecidableEq, Repr

/-! ### Stagger Unit -/

/-- A held attitude sample (R158). -/
structure AttitudeSample where
  roll : Int
  lateral : Int
  deriving DecidableEq, Repr

inductive AttitudeState where
  | fresh
  | held
  | lost
  deriving DecidableEq, Repr

/-- The attitude hold (Chapter 9). -/
structure StaggerUnit where
  sample : Option AttitudeSample
  age : Nat
  state : AttitudeState
  deriving DecidableEq, Repr

/-! ### Run control -/

inductive RunState where
  | idle
  | run
  | pause
  deriving DecidableEq, Repr

/-! ### Telegrams and the Link Controller -/

/-- The wear part of a SIGHTING (R189). -/
structure WearPart where
  width : Nat
  height : Nat
  quality : Nat
  deriving DecidableEq, Repr

/-- A SIGHTING (R189). `flags` is the flags field; WEAR_PRESENT and ORIGIN_PRESENT agree with `wear` and `origin`. -/
structure Sighting where
  tag : Byte
  blockSeq : Word16
  run : Word16
  cls : Nat
  openFrame : Word32
  openDistance : Word32
  closeDistance : Word32
  frames : Nat
  hitFrames : Nat
  rows : Nat
  missing : Nat
  staggerMean : Int
  staggerMin : Int
  staggerMax : Int
  lateralMean : Int
  heightMean : Nat
  flags : BitVec 24
  wear : Option WearPart
  origin : Option Origin
  deriving DecidableEq, Repr

/-- A HANDOVER (R106, R188). -/
structure Handover where
  target : Nat
  tag : Byte
  x : Int
  v : Int
  height : Nat
  frame : Word16
  deriving DecidableEq, Repr

/-- A HEADSTATE (R184, R190). -/
structure Headstate where
  mountOffset : Int
  slot : Nat
  settling : Bool
  keep : Nat
  run : Word16
  runState : RunState
  blockSeq : Word16
  frameIndex : Word32
  distance : Word32
  presence : Byte
  attitude : AttitudeState
  entries : Nat
  sticky : Word16
  mark : Option PoleMark
  deriving DecidableEq, Repr

/-- A telegram this head sends (R173). -/
inductive Telegram where
  | sighting (g : Sighting)
  | handover (h : Handover)
  | headstate (h : Headstate)
  deriving DecidableEq, Repr

/-- A good telegram in a receive buffer (R176): its identifier and its body. -/
structure RxTelegram where
  ident : Byte
  body : List Byte
  deriving DecidableEq, Repr

/-- The transmit state (R174). The telegram concerned is the one at the head of the queue; `driving` tells that the
LC has driven the start bit and drives the identifier. -/
inductive TxState where
  | idle
  | contending (driving : Bool)
  | sending
  deriving DecidableEq, Repr

inductive RxState where
  | waitIdle
  | ready
  | receiving
  deriving DecidableEq, Repr

/-- The Link Controller (Chapter 10). `lineOut` is what the LC drives on LINKP/LINKN for the transmission it has
started, empty when it drives nothing (log 14); `rxBuffers` holds the buffered telegrams, oldest first; `headstateDue`
tells that a HEADSTATE fell due while one was in transmission (R181). -/
structure LinkController where
  txQueue : List Telegram
  tx : TxState
  lineOut : List Level
  headstateDue : Bool
  rx : RxState
  rxBuffers : List RxTelegram
  sticky : Word16
  deriving DecidableEq, Repr

/-! ### Start-up and Run Control -/

/-- How far LOADING has come (R195, R196): waiting for the memory to power up, reading with the bits sent on CFG_DO,
or checking the bytes read. -/
inductive LoadPhase where
  | waiting
  | reading (sent : List Pin)
  | checking (block : List Byte)
  deriving DecidableEq, Repr

/-- The part state (Chapter 11). `held` is the part while RESET is low (R193); CONFIG_BAD keeps the bytes read
(R184), and OPERATING the accepted start-up block (R201). -/
inductive PartState where
  | held
  | loading (phase : LoadPhase)
  | configBad (block : List Byte)
  | operating (cfg : Startup)
  deriving DecidableEq, Repr

/-- Start-up and Run Control (Chapter 11) with the pin CFG_CS. -/
structure StartupControl where
  part : PartState
  station : Nat
  cfgCs : Pin
  runState : RunState
  runNumber : Word16
  pendingClass : Nat
  currentClass : Nat
  deriving DecidableEq, Repr

/-! ### The whole head -/

structure State where
  du : DistanceUnit
  ec : ExposureController
  fe : FrontEnd
  /-- The Load Governor's keep factor (R59). -/
  keep : Nat
  tt : TrackTable
  /-- The Neighbour List: position i is the record of station i + 1. -/
  nl : List Neighbour
  ss : StripStore
  su : StaggerUnit
  lc : LinkController
  src : StartupControl
  /-- The model's own: the commands that wait, first in, first out. -/
  pending : List Instr
  deriving DecidableEq, Repr

/-- No command of this part stops it: the spec answers every error with a flag or with CONFIG_BAD (R185, R197), so
there is no fault. -/
inductive Fault where
  deriving DecidableEq, Repr

/-- `notModelled` is raised by an arm of `exec` whose command has no meaning yet; it is safe. No arm raises it. -/
inductive Refusal where
  | notModelled (mnemonic : String)
  deriving DecidableEq, Repr

/-! ### Reset (R193) -/

/-- Section 1 and R19, R6. -/
def DistanceUnit.reset : DistanceUnit :=
  { distance := 0, direction := .forward, downCounter := 0, frameIndex := 0, mark := none
    rateRunning := 0, rateLast := 0 }

/-- R13, R34. The current slot waits for the start-up block; until then the model holds 0 (log 5). -/
def ExposureController.reset : ExposureController :=
  { currentSlot := 0, pendingSlot := none, state := .steady, settleCount := 0, strayStreak := 0, cycle := none
    expose := .low, laser := .low }

/-- R58. -/
def FrontEnd.reset : FrontEnd :=
  { receiving := false, expected := [], queue := [], inProcess := none
    background := List.replicate Config.cells 0 }

/-- R70. The zone waits for the mount offset; until then the model takes it about 0 (log 5). -/
def TrackTable.reset : TrackTable :=
  { entries := List.replicate Config.entries none, nextTag := 0, creationSeq := 0
    zone := { left := -256000, right := 256000, leftSetBy := none, rightSetBy := none } }

/-- R99. -/
def Neighbour.reset : Neighbour :=
  { state := .unknown, mountOffset := none, slot := none, age := 0, notTaking := 0, heldBack := false }

/-- R126. -/
def StripStore.reset : StripStore :=
  { openBlock := none, settling := [], blockSeq := 0, banks := [.free, .free], computing := none }

/-- R170. -/
def StaggerUnit.reset : StaggerUnit :=
  { sample := none, age := 0, state := .lost }

/-- R186. -/
def LinkController.reset : LinkController :=
  { txQueue := [], tx := .idle, lineOut := [], headstateDue := false, rx := .waitIdle, rxBuffers := [], sticky := 0 }

/-- R193, R205. The station number waits for the straps; until then the model holds 1 (log 5). -/
def StartupControl.reset : StartupControl :=
  { part := .held, station := 1, cfgCs := .high, runState := .idle, runNumber := 0, pendingClass := 0
    currentClass := 0 }

/-- The part as power-on or a low level on RESET leaves it (R193): held in reset, with no command waiting. -/
def State.reset : State :=
  { du := .reset, ec := .reset, fe := .reset, keep := 8, tt := .reset, nl := List.replicate 8 .reset
    ss := .reset, su := .reset, lc := .reset, src := .reset, pending := [] }

/-! ### Setters, one for each block -/

def State.setDu (s : State) (u : DistanceUnit) : State := { s with du := u }
def State.setEc (s : State) (u : ExposureController) : State := { s with ec := u }
def State.setFe (s : State) (u : FrontEnd) : State := { s with fe := u }
def State.setKeep (s : State) (u : Nat) : State := { s with keep := u }
def State.setTt (s : State) (u : TrackTable) : State := { s with tt := u }
def State.setNl (s : State) (u : List Neighbour) : State := { s with nl := u }
def State.setSs (s : State) (u : StripStore) : State := { s with ss := u }
def State.setSu (s : State) (u : StaggerUnit) : State := { s with su := u }
def State.setLc (s : State) (u : LinkController) : State := { s with lc := u }
def State.setSrc (s : State) (u : StartupControl) : State := { s with src := u }
def State.setPending (s : State) (u : List Instr) : State := { s with pending := u }

end Sys2Proof.Machine
end

