-- ==== Sys2Proof/Machine/Flags.lean ====
section
/-! DEFINITION. The sticky flags of a HEADSTATE (R185, R190) and the flags of a SIGHTING (R189). -/

namespace Sys2Proof.Machine

/-- The sticky flags in the order of their bits (R190). -/
inductive StickyFlag where
  | configBad
  | configClamped
  | windowsTrimmed
  | duplicateStation
  | reportLost
  | rxOverrun
  | linkError
  | txError
  | sensorFault
  | queueDrop
  | frameSkipped
  | tableSaturated
  | bankStarved
  | hopped
  | ambient
  | candidatesTruncated
  deriving DecidableEq, Repr

/-- The place of a sticky flag in the field (R190). -/
def StickyFlag.bit : StickyFlag → Nat
  | .configBad => 0
  | .configClamped => 1
  | .windowsTrimmed => 2
  | .duplicateStation => 3
  | .reportLost => 4
  | .rxOverrun => 5
  | .linkError => 6
  | .txError => 7
  | .sensorFault => 8
  | .queueDrop => 9
  | .frameSkipped => 10
  | .tableSaturated => 11
  | .bankStarved => 12
  | .hopped => 13
  | .ambient => 14
  | .candidatesTruncated => 15

/-- The field with one flag set. -/
def StickyFlag.mask (f : StickyFlag) : Word16 := BitVec.ofNat 16 (2 ^ f.bit)

/-- A flag is set in a field of sticky flags. -/
def StickyFlag.isSetIn (f : StickyFlag) (w : Word16) : Bool := w.getLsbD f.bit

/-- Raising a flag (R185). -/
def LinkController.raise (l : LinkController) (f : StickyFlag) : LinkController :=
  { l with sticky := l.sticky ||| f.mask }

/-- Any block raises a flag in the Link Controller's sticky flags (R185). -/
def State.raise (s : State) (f : StickyFlag) : State := s.setLc (s.lc.raise f)

/-- Raising a flag where a condition holds. -/
def State.raiseIf (s : State) (c : Bool) (f : StickyFlag) : State := if c then s.raise f else s

/-- The flags of a SIGHTING in the order of their bits (R189). -/
inductive SightFlag where
  | wearPresent
  | originPresent
  | crossing
  | noFace
  | fewRows
  | widthSaturated
  | windowEdge
  | bankStarved
  | belowLimit
  | staggerLimit
  | attHeld
  | uncorrected
  | ambient
  | decimated
  | ended
  | handed
  | yieldedDup
  | reclaimed
  | clamped
  | shortBlock
  deriving DecidableEq, Repr

/-- The place of a flag in the flags field of a SIGHTING (R189). -/
def SightFlag.bit : SightFlag → Nat
  | .wearPresent => 0
  | .originPresent => 1
  | .crossing => 2
  | .noFace => 3
  | .fewRows => 4
  | .widthSaturated => 5
  | .windowEdge => 6
  | .bankStarved => 7
  | .belowLimit => 8
  | .staggerLimit => 9
  | .attHeld => 10
  | .uncorrected => 11
  | .ambient => 12
  | .decimated => 13
  | .ended => 14
  | .handed => 15
  | .yieldedDup => 16
  | .reclaimed => 17
  | .clamped => 18
  | .shortBlock => 19

/-- The flags field that holds the flags whose condition is true; bits 20 to 23 are 0 (R189). -/
def sightFlags (fs : List (SightFlag × Bool)) : BitVec 24 :=
  fs.foldl (fun w p => if p.2 then w ||| BitVec.ofNat 24 (2 ^ p.1.bit) else w) 0

/-- A flag is set in the flags field of a SIGHTING. -/
def SightFlag.isSetIn (f : SightFlag) (w : BitVec 24) : Bool := w.getLsbD f.bit

end Sys2Proof.Machine
end

