-- ==== Sys2Proof/Machine/Governor.lean ====
section
/-! DEFINITION. The Load Governor (Chapter 4). -/

namespace Sys2Proof.Machine

/-- An enabled rule holds when its source is at least its threshold (R59, R60). -/
def ruleHolds (fill rate : Nat) (r : GovernorRule) : Bool :=
  r.enabled && decide (r.threshold ≤ if r.source = 0 then fill else rate)

/-- The keep factor of the first enabled rule that holds, and 8 when none does (R60). -/
def keepFactor (rules : List GovernorRule) (fill rate : Nat) : Nat :=
  ((rules.find? (ruleHolds fill rate)).map (·.keep)).getD 8

/-- The governor evaluates: QUEUE reads the fill of the frame queue (R61), RATE the last completed window (R62). -/
def governorEvaluate (cfg : Startup) (s : State) : State :=
  s.setKeep (keepFactor cfg.rules s.fe.queue.length s.du.rateLast)

/-- The keep pattern (R65). -/
def isKept (f : Word32) (k : Nat) : Bool := decide (f.toNat % 8 * k % 8 < k)

/-- The class of a frame at its exposure (R55). -/
def frameClass (f : Word32) (k : Nat) : FrameClass :=
  if isDark f then .dark else if isKept f k then .full else .gateOnly

end Sys2Proof.Machine
end

