-- ==== Sys2Proof/Machine/Operands.lean ====
section
/-! DEFINITION. What the commands bring in, read by its layout: sensor rows (R191), levels on the line (R171, R172,
R176), telegram bodies (R188 to R190) and the start-up block (R192, R198 to R200). -/

namespace Sys2Proof.Machine

/-! ### Sensor rows -/

/-- A sensor row of the right length: its tag, its kind nibble and its cells (R191). -/
structure SensorRow where
  tag : Byte
  kind : Nibble
  cells : List RowCell
  deriving DecidableEq, Repr

/-- Three nibbles as a 12-bit number, high nibble first (R191). -/
def sampleOf (h m l : Nibble) : Sample := h ++ m ++ l

/-- Cells of six nibbles each: intensity, then height code (R191). A rest of fewer than six nibbles is no cell. -/
def cellsOf : List Nibble → List RowCell
  | a :: b :: c :: d :: e :: f :: rest => ⟨sampleOf a b c, sampleOf d e f⟩ :: cellsOf rest
  | _ => []

/-- A row on the sensor port: none when it is malformed, that is, of any length but 3 + 6 · 2048 nibbles (R35,
R191). -/
def sensorRowOf (nibbles : List Nibble) : Option SensorRow :=
  if nibbles.length = 3 + 6 * Config.cells then
    match nibbles with
    | hi :: lo :: kind :: rest => some ⟨hi ++ lo, kind, cellsOf rest⟩
    | _ => none
  else none

/-- The row's kind agrees with a frame's class (R37, R191): 0 dark, 1 lit, any other nibble with none. -/
def kindAgrees (kind : Nibble) : FrameClass → Bool
  | .dark => kind == 0
  | .full => kind == 1
  | .gateOnly => kind == 1

/-! ### CRC -/

/-- One bit into the CRC register of polynomial x^16 + x^12 + x^5 + 1 (R172). -/
def crcBit (reg : Word16) (bit : Bool) : Word16 :=
  if (reg.getLsbD 15) != bit then (reg <<< 1) ^^^ 0x1021 else reg <<< 1

/-- One byte into the CRC register, most significant bit first (R172). -/
def crcByte (reg : Word16) (b : Byte) : Word16 :=
  [7, 6, 5, 4, 3, 2, 1, 0].foldl (fun r k => crcBit r (b.getLsbD k)) reg

/-- The CRC of a sequence of bytes: the register starts at all ones, no final inversion (R172). -/
def crc16 (bs : List Byte) : Word16 := bs.foldl crcByte 0xFFFF

/-! ### The line -/

/-- A bit on the line: 0 dominant, 1 recessive (R171). -/
def levelOf (bit : Bool) : Level := if bit then .recessive else .dominant

/-- A byte on the line, most significant bit first, with its dominant separator (R171). -/
def byteLevels (b : Byte) : List Level :=
  [levelOf (b.getLsbD 7), levelOf (b.getLsbD 6), levelOf (b.getLsbD 5), levelOf (b.getLsbD 4),
    levelOf (b.getLsbD 3), levelOf (b.getLsbD 2), levelOf (b.getLsbD 1), levelOf (b.getLsbD 0), .dominant]

/-- The bytes of a telegram: identifier, length, body, CRC high byte first (R171, R187). -/
def telegramBytes (ident : Byte) (body : List Byte) : List Byte :=
  let covered := ident :: BitVec.ofNat 8 body.length :: body
  covered ++ bytesOf 2 (crc16 covered).toNat

/-- A telegram on the line: start bit, bytes with separators, end field, idle bits (R171, R187). -/
def lineLevels (ident : Byte) (body : List Byte) : List Level :=
  .dominant :: (telegramBytes ident body).flatMap byteLevels ++ List.replicate 2 .recessive
    ++ List.replicate 8 .recessive

/-- The level read at bit time `i`; the line rests recessive after a station stops driving (R176):
DEDUCED for levels past the end (log 15). -/
def levelAt (ls : List Level) (i : Nat) : Level := ls.getD i .recessive

/-- The byte number `k` of a telegram, from the levels read after its start bit (R171). -/
def byteAt (ls : List Level) (k : Nat) : Byte :=
  [0, 1, 2, 3, 4, 5, 6, 7].foldl
    (fun b j => (b <<< 1) ||| (if levelAt ls (9 * k + j) = .recessive then 1 else 0)) 0

/-- The checks of reception (R176) over the levels read after a start bit: the good telegram, or none when a
separator is recessive, the length byte is above 48, an end field bit is dominant or the CRC does not match. -/
def receive (ls : List Level) : Option RxTelegram :=
  let n := (byteAt ls 1).toNat
  let bytes := (List.range (n + 4)).map (byteAt ls)
  let separators := (List.range (n + 4)).all fun k => levelAt ls (9 * k + 8) == .dominant
  let endField := levelAt ls (9 * (n + 4)) == .recessive && levelAt ls (9 * (n + 4) + 1) == .recessive
  if n ≤ 48 && separators && endField
      && natOf (bytes.drop (n + 2)) == (crc16 (bytes.take (n + 2))).toNat then
    some ⟨byteAt ls 0, (bytes.drop 2).take n⟩
  else none

/-! ### Kinds and bodies -/

/-- The kinds of telegram (R173). -/
inductive Kind where
  | run
  | attitude
  | handover
  | sighting
  | headstate
  deriving DecidableEq, Repr

/-- The kind a code names, none for an unknown kind (R173). -/
def kindOfCode : Nat → Option Kind
  | 1 => some .run
  | 2 => some .attitude
  | 3 => some .handover
  | 4 => some .sighting
  | 5 => some .headstate
  | _ => none

/-- The kind in the high four bits of the identifier (R173). -/
def RxTelegram.kind (t : RxTelegram) : Option Kind := kindOfCode (t.ident.toNat / 16)

/-- The sending station in the low four bits of the identifier (R173). -/
def RxTelegram.station (t : RxTelegram) : Nat := t.ident.toNat % 16

/-- The flags field of a SIGHTING body (R189). -/
def sightingFlagsOf (body : List Byte) : BitVec 24 := BitVec.ofNat 24 (natOf (field body 36 3))

/-- The body length that a SIGHTING's flags require (R189). -/
def sightingLength (flags : BitVec 24) : Nat :=
  39 + (if SightFlag.wearPresent.isSetIn flags then 5 else 0)
    + (if SightFlag.originPresent.isSetIn flags then 2 else 0)

/-- The body lengths a kind accepts (R173, R189). -/
def lengthAccepted (k : Kind) (body : List Byte) : Bool :=
  match k with
  | .run => body.length == 4
  | .attitude => body.length == 8
  | .handover => body.length == 11
  | .sighting => body.length == sightingLength (sightingFlagsOf body)
  | .headstate => body.length == 23 || body.length == 32

/-- A RUN body (R188). -/
structure RunBody where
  run : Word16
  state : Nat
  cls : Nat
  deriving DecidableEq, Repr

def runBodyOf (body : List Byte) : RunBody :=
  { run := BitVec.ofNat 16 (natOf (field body 0 2)), state := natOf (field body 2 1), cls := natOf (field body 3 1) }

/-- The run state a byte names, none above 2 (R188, R202). -/
def runStateOf : Nat → Option RunState
  | 0 => some .idle
  | 1 => some .run
  | 2 => some .pause
  | _ => none

/-- The roll and lateral displacement of an ATTITUDE body (R188). -/
def attitudeOf (body : List Byte) : AttitudeSample :=
  { roll := intOf (field body 2 3), lateral := intOf (field body 5 3) }

/-- A HANDOVER body (R188). -/
def handoverOf (body : List Byte) : Handover :=
  { target := natOf (field body 0 1), tag := body.getD 1 0, x := intOf (field body 2 3)
    v := intOf (field body 5 2), height := natOf (field body 7 2)
    frame := BitVec.ofNat 16 (natOf (field body 9 2)) }

/-- The origin part of a SIGHTING body, none when ORIGIN_PRESENT is clear (R189). -/
def sightingOriginOf (body : List Byte) : Option Origin :=
  let flags := sightingFlagsOf body
  if SightFlag.originPresent.isSetIn flags then
    let offset := if SightFlag.wearPresent.isSetIn flags then 44 else 39
    some ⟨(body.getD offset 0).toNat, body.getD (offset + 1) 0⟩
  else none

/-- The car-frame lateral mean of a SIGHTING body (R189). -/
def sightingLateralOf (body : List Byte) : Int := intOf (field body 31 3)

/-- The mount offset of a HEADSTATE body (R190). -/
def headstateMountOf (body : List Byte) : Int := intOf (field body 0 3)

/-- The announced slot of a HEADSTATE body: bits 1 to 0 of offset 3 (R190). -/
def headstateSlotOf (body : List Byte) : Nat := (body.getD 3 0).toNat % 4

/-- The sticky flags of a HEADSTATE body (R190). -/
def headstateStickyOf (body : List Byte) : Word16 := BitVec.ofNat 16 (natOf (field body 21 2))

/-! ### The start-up block -/

def windowOf (block : List Byte) (w : Nat) : Window :=
  { enabled := (block.getD (18 + 5 * w) 0).getLsbD 0, base := natOf (field block (19 + 5 * w) 2)
    mask := natOf (field block (21 + 5 * w) 2) }

def ruleOf (block : List Byte) (g : Nat) : GovernorRule :=
  { enabled := (block.getD (38 + 4 * g) 0).getLsbD 0, source := natOf (field block (39 + 4 * g) 1)
    threshold := natOf (field block (40 + 4 * g) 1), keep := natOf (field block (41 + 4 * g) 1) }

def classOf (block : List Byte) (c : Nat) : WireClass :=
  { radius := natOf (field block (54 + 9 * c) 2), nominal := natOf (field block (56 + 9 * c) 2)
    wearLimit := natOf (field block (58 + 9 * c) 2), staggerLimit := natOf (field block (60 + 9 * c) 3) }

/-- The fields of a start-up block as the memory gave them (R192). -/
def startupOf (block : List Byte) : Startup :=
  { mountOffset := intOf (field block 0 3), refHeight := natOf (field block 3 2)
    pitch := natOf (field block 5 1), exposure := natOf (field block 6 1), slot := natOf (field block 7 1)
    bandLow := natOf (field block 8 2), bandHigh := natOf (field block 10 2)
    tDet := natOf (field block 12 2), tFace := natOf (field block 14 2), tStray := natOf (field block 16 2)
    windows := (List.range 4).map (windowOf block), rules := (List.range 4).map (ruleOf block)
    classes := (List.range 4).map (classOf block)
    alertBelowLimit := (block.getD 90 0).getLsbD 0, alertStagger := (block.getD 90 0).getLsbD 1 }

/-- All 128 bytes are 0xFF (R196). -/
def isBlank (block : List Byte) : Bool := block.all (· == 0xFF)

/-- The CRC of bytes 0 to 125 agrees with bytes 126 and 127 (R196). -/
def crcGood (block : List Byte) : Bool :=
  natOf (field block 126 2) == (crc16 (block.take 126)).toNat

/-- The window with the bits above bit 10 of base and mask cleared (R198). -/
def clampWindow (w : Window) : Window := { w with base := w.base % 2048, mask := w.mask % 2048 }

/-- The rule with its source decided first, then its threshold and keep factor clamped (R198). -/
def clampRule (r : GovernorRule) : GovernorRule :=
  if r.source = 0 then { r with threshold := clampNat 1 4 r.threshold, keep := clampNat 1 8 r.keep }
  else { r with source := 1, threshold := clampNat 0 255 r.threshold, keep := clampNat 1 8 r.keep }

/-- The class figures clamped (R198). -/
def clampClass (c : WireClass) : WireClass :=
  { radius := clampNat 3000 9000 c.radius, nominal := clampNat 6000 18000 c.nominal
    wearLimit := clampNat 0 18000 c.wearLimit, staggerLimit := clampNat 0 1000000 c.staggerLimit }

/-- Each field clamped to its range (R198). -/
def clampStartup (c : Startup) : Startup :=
  { c with
    mountOffset := clampInt (-1500000) 1500000 c.mountOffset
    refHeight := clampNat 0 4000 c.refHeight
    pitch := clampNat 1 64 c.pitch
    exposure := clampNat 5 40 c.exposure
    slot := clampNat 0 3 c.slot
    bandLow := clampNat 1 4095 c.bandLow
    bandHigh := clampNat 1 4095 c.bandHigh
    tDet := clampNat 1 4095 c.tDet
    tFace := clampNat 1 4095 c.tFace
    tStray := clampNat 1 4095 c.tStray
    windows := c.windows.map clampWindow
    rules := c.rules.map clampRule
    classes := c.classes.map clampClass }

/-- Steps 3 and 4 of R199 on one class. -/
def tieClass (c : WireClass) : WireClass :=
  let nominal := max c.nominal c.radius
  { c with nominal := nominal, wearLimit := min c.wearLimit nominal }

/-- The rules that tie fields to each other (R199). -/
def tieStartup (c : Startup) : Startup :=
  { c with
    bandLow := if c.bandHigh ≤ c.bandLow then 1 else c.bandLow
    bandHigh := if c.bandHigh ≤ c.bandLow then 4095 else c.bandHigh
    tFace := max c.tFace c.tDet
    classes := c.classes.map tieClass }

/-- The cells a window covers: 2^(11 - ones) (R200). -/
def windowCoverage (w : Window) : Nat := 2 ^ (11 - (List.range 11).countP (fun k => w.mask.testBit k))

/-- Windows taken in order with the running sum of coverage; one that would pass 1,536 cells is disabled (R200). -/
def trimWindows : Nat → List Window → List Window
  | _, [] => []
  | sum, w :: ws =>
    if w.enabled then
      if sum + windowCoverage w ≤ 1536 then w :: trimWindows (sum + windowCoverage w) ws
      else { w with enabled := false } :: trimWindows sum ws
    else w :: trimWindows sum ws

/-- The exclusion windows trimmed (R200). -/
def trimStartup (c : Startup) : Startup := { c with windows := trimWindows 0 c.windows }

/-- The start-up block brought into range, tied and trimmed (R198 to R200), as it is accepted (R201). -/
def acceptedOf (block : List Byte) : Startup := trimStartup (tieStartup (clampStartup (startupOf block)))

/-- R198 or R199 changed a field, so CONFIG_CLAMPED is raised. -/
def wasClamped (block : List Byte) : Bool :=
  let raw := startupOf block
  clampStartup raw != raw || tieStartup (clampStartup raw) != clampStartup raw

/-- R200 disabled a window, so WINDOWS_TRIMMED is raised. -/
def wasTrimmed (block : List Byte) : Bool :=
  let tied := tieStartup (clampStartup (startupOf block))
  trimStartup tied != tied

end Sys2Proof.Machine
end

