-- ==== Sys2Proof/Machine/Encode.lean ====
section
/-! DEFINITION. The telegrams this head sends, byte by byte and level by level (R173, R187 to R190), and a sensor row
nibble by nibble, as the sensor sends it (R191). -/

namespace Sys2Proof.Machine

/-- The run state byte (R190). -/
def runStateCode : RunState → Nat
  | .idle => 0
  | .run => 1
  | .pause => 2

/-- The attitude state byte (R190). -/
def attitudeCode : AttitudeState → Nat
  | .fresh => 0
  | .held => 1
  | .lost => 2

/-- The 1 or 0 of a condition. -/
def bitOf (b : Bool) : Nat := if b then 1 else 0

/-- The wear part (R189). -/
def wearBytes : Option WearPart → List Byte
  | none => []
  | some w => bytesOf 2 w.width ++ bytesOf 2 w.height ++ bytesOf 1 w.quality

/-- The origin part (R189). -/
def originBytes : Option Origin → List Byte
  | none => []
  | some o => [BitVec.ofNat 8 o.station, o.tag]

/-- The SIGHTING body (R189). -/
def sightingBody (g : Sighting) : List Byte :=
  [g.tag] ++ bytesOf 2 g.blockSeq.toNat ++ bytesOf 2 g.run.toNat ++ bytesOf 1 g.cls
    ++ bytesOf 4 g.openFrame.toNat ++ bytesOf 4 g.openDistance.toInt ++ bytesOf 4 g.closeDistance.toInt
    ++ bytesOf 1 g.frames ++ bytesOf 1 g.hitFrames ++ bytesOf 1 g.rows ++ bytesOf 1 g.missing
    ++ bytesOf 3 g.staggerMean ++ bytesOf 3 g.staggerMin ++ bytesOf 3 g.staggerMax
    ++ bytesOf 3 g.lateralMean ++ bytesOf 2 g.heightMean ++ bytesOf 3 g.flags.toNat
    ++ wearBytes g.wear ++ originBytes g.origin

/-- The HANDOVER body (R188). -/
def handoverBody (h : Handover) : List Byte :=
  bytesOf 1 h.target ++ [h.tag] ++ bytesOf 3 h.x ++ bytesOf 2 h.v ++ bytesOf 2 h.height
    ++ bytesOf 2 h.frame.toNat

/-- The pole mark of a HEADSTATE body (R190). -/
def markBytes : Option PoleMark → List Byte
  | none => []
  | some m => bytesOf 4 m.distance.toInt ++ bytesOf 4 m.frame.toNat ++ bytesOf 1 (bitOf m.overwritten)

/-- The HEADSTATE body (R190). -/
def headstateBody (h : Headstate) : List Byte :=
  bytesOf 3 h.mountOffset ++ bytesOf 1 (h.slot + 128 * bitOf h.settling) ++ bytesOf 1 h.keep
    ++ bytesOf 2 h.run.toNat ++ bytesOf 1 (runStateCode h.runState) ++ bytesOf 2 h.blockSeq.toNat
    ++ bytesOf 4 h.frameIndex.toNat ++ bytesOf 4 h.distance.toInt ++ [h.presence]
    ++ bytesOf 1 (attitudeCode h.attitude) ++ bytesOf 1 h.entries ++ bytesOf 2 h.sticky.toNat
    ++ markBytes h.mark

/-- The code of the kind of a telegram (R173). -/
def Telegram.code : Telegram → Nat
  | .handover _ => 3
  | .sighting _ => 4
  | .headstate _ => 5

/-- The identifier: kind code in the high four bits, station in the low four (R173). -/
def Telegram.ident (station : Nat) (t : Telegram) : Byte := BitVec.ofNat 8 (16 * t.code + station)

/-- The body of a telegram (R188 to R190). -/
def Telegram.body : Telegram → List Byte
  | .sighting g => sightingBody g
  | .handover h => handoverBody h
  | .headstate h => headstateBody h

/-- A telegram of this head on the line (R171, R187). -/
def Telegram.levels (station : Nat) (t : Telegram) : List Level := lineLevels (t.ident station) t.body

/-- A 12-bit number as three nibbles, high nibble first (R191). -/
def sampleNibbles (x : Sample) : List Nibble := [x.extractLsb' 8 4, x.extractLsb' 4 4, x.extractLsb' 0 4]

/-- A sensor row as the sensor drives it on SRD3 to SRD0: tag, kind, then intensity and height of each cell (R191). -/
def SensorRow.nibbles (r : SensorRow) : List Nibble :=
  r.tag.extractLsb' 4 4 :: r.tag.extractLsb' 0 4 :: r.kind ::
    r.cells.flatMap fun c => sampleNibbles c.intensity ++ sampleNibbles c.height

end Sys2Proof.Machine
end

