-- ==== Sys2Proof/Machine/Ops.lean ====
section
/-! DEFINITION. Operations that the commands of several families share: the Neighbour List and the own zone (R102,
R103), and the Link Controller's transmit queue (R174, R179 to R185). -/

namespace Sys2Proof.Machine

/-! ### Neighbour List and own zone -/

/-- The record of a station, 1 to 8 (R99); no other station has one. -/
def State.neighbour (s : State) (station : Nat) : Neighbour :=
  match station with
  | 0 => .reset
  | k + 1 => s.nl.getD k .reset

/-- Replacing the record of a station. -/
def State.setNeighbour (s : State) (station : Nat) (r : Neighbour) : State :=
  match station with
  | 0 => s
  | k + 1 => s.setNl (s.nl.set k r)

/-- A record is PRESENT and the distance of its mount offset from `mount` passes the test `ok`. -/
def Neighbour.near (r : Neighbour) (mount : Int) (ok : Nat → Bool) : Bool :=
  r.state == .present && match r.mountOffset with
    | some m => ok (m - mount).natAbs
    | none => false

/-- A neighbour overlaps this head (R102). -/
def Neighbour.overlaps (r : Neighbour) (mount : Int) : Bool := r.near mount (· < 512000)

/-- A neighbour reaches this head's sensor (R25). -/
def Neighbour.inSlotRange (r : Neighbour) (mount : Int) : Bool := r.near mount (· ≤ 1024000)

/-- A neighbour is eligible to bound the zone: it overlaps, its not-taking count is 0 and it is not held back (R103,
R117). -/
def Neighbour.eligible (r : Neighbour) (mount : Int) : Bool :=
  r.overlaps mount && r.notTaking == 0 && !r.heldBack

/-- The stations and mount offsets of the eligible neighbours, in order of station. -/
def eligibleOffsets (nl : List Neighbour) (mount : Int) : List (Nat × Int) :=
  nl.zipIdx.filterMap fun p =>
    if p.1.eligible mount then p.1.mountOffset.map fun m => (p.2 + 1, m) else none

/-- The nearest of the offsets to `mount`, the earlier of two equally near. -/
def nearestOffset (mount : Int) : List (Nat × Int) → Option (Nat × Int)
  | [] => none
  | p :: ps =>
    match nearestOffset mount ps with
    | none => some p
    | some q => if (p.2 - mount).natAbs ≤ (q.2 - mount).natAbs then some p else some q

/-- The own zone of a head mounted at `mount` (R103). -/
def ownZone (nl : List Neighbour) (mount : Int) : Zone :=
  let offsets := eligibleOffsets nl mount
  let below := nearestOffset mount (offsets.filter fun p => p.2 < mount)
  let above := nearestOffset mount (offsets.filter fun p => mount < p.2)
  { left := match below with | some p => (mount + p.2) / 2 | none => mount - 256000
    right := match above with | some p => (mount + p.2) / 2 | none => mount + 256000
    leftSetBy := below.map (·.1)
    rightSetBy := above.map (·.1) }

/-- The Track Table latches the zone as the Neighbour List holds it (R71). -/
def latchZone (cfg : Startup) (s : State) : State :=
  s.setTt { s.tt with zone := ownZone s.nl cfg.mountOffset }

/-- The presence map: bit s - 1 for station s, the own station's place always clear (R102, R190). -/
def presenceMap (nl : List Neighbour) (own : Nat) : Byte :=
  nl.zipIdx.foldl
    (fun w p => if p.1.state = .present ∧ p.2 + 1 ≠ own then w ||| BitVec.ofNat 8 (2 ^ p.2) else w) 0

/-! ### Reading what a HEADSTATE reports -/

/-- The bytes of the start-up memory that a part in CONFIG_BAD keeps (R184). -/
def PartState.rawBlock : PartState → List Byte
  | .configBad block => block
  | _ => []

/-- The number of non-empty entries (R96). -/
def TrackTable.count (t : TrackTable) : Nat := t.entries.countP Option.isSome

/-- The slot a HEADSTATE announces: the pending slot if one is held, otherwise the current one (R32). -/
def ExposureController.announced (e : ExposureController) : Nat := e.pendingSlot.getD e.currentSlot

/-- The sticky flags a HEADSTATE carries: those held, and CONFIG_BAD while the part is CONFIG_BAD (R185). -/
def State.stickyCarried (s : State) : Word16 :=
  match s.src.part with
  | .configBad _ => s.lc.sticky ||| StickyFlag.configBad.mask
  | _ => s.lc.sticky

/-- The contents a HEADSTATE takes as it is queued (R184). Outside OPERATING the fields have the fixed values, with
the mount offset and slot read raw from the memory bytes. -/
def headstateOf (s : State) : Headstate :=
  match s.src.part with
  | .operating cfg =>
    { mountOffset := cfg.mountOffset, slot := s.ec.announced, settling := s.ec.state == .settling, keep := s.keep
      run := s.src.runNumber, runState := s.src.runState, blockSeq := s.ss.blockSeq
      frameIndex := s.du.frameIndex, distance := s.du.distance
      presence := presenceMap s.nl s.src.station, attitude := s.su.state, entries := s.tt.count
      sticky := s.stickyCarried, mark := s.du.mark }
  | p =>
    { mountOffset := intOf (field p.rawBlock 0 3), slot := (p.rawBlock.getD 7 0).toNat % 4, settling := false
      keep := 8, run := 0, runState := .idle, blockSeq := 0, frameIndex := 0, distance := s.du.distance
      presence := 0, attitude := .lost, entries := 0, sticky := s.stickyCarried, mark := none }

/-! ### Transmit queue -/

def Telegram.isSighting : Telegram → Bool
  | .sighting _ => true
  | _ => false

def Telegram.isHeadstate : Telegram → Bool
  | .headstate _ => true
  | _ => false

/-- An LC that is IDLE with a telegram queued takes the head of the queue and becomes CONTENDING, in the same step:
DEDUCED (R174, log 12). -/
def LinkController.takeHead (l : LinkController) : LinkController :=
  if l.tx = .idle ∧ l.txQueue ≠ [] then { l with tx := .contending false } else l

/-- The LC stops driving at once; it is CONTENDING with the telegram at the head of the queue, or IDLE when the queue
is empty (R174). -/
def LinkController.stopDriving (l : LinkController) : LinkController :=
  { l with tx := if l.txQueue = [] then .idle else .contending false, lineOut := [] }

/-- A telegram joins the tail of the queue (R179). -/
def LinkController.join (l : LinkController) (t : Telegram) : LinkController :=
  { l with txQueue := l.txQueue ++ [t] }.takeHead

/-- The place in the queue of the oldest telegram of a sort that is not in transmission (R180, R181). -/
def LinkController.oldest (l : LinkController) (sort : Telegram → Bool) : Option Nat :=
  (l.txQueue.zipIdx.find? fun p => sort p.1 && !(l.tx == .sending && p.2 == 0)).map (·.2)

/-- The telegram at place `i` is displaced and another joins the tail; the LC stops driving when the displaced one
was the telegram it contends with (R174, R180, R181). -/
def LinkController.displace (l : LinkController) (i : Nat) (t : Telegram) : LinkController :=
  let l' := { l with txQueue := l.txQueue.eraseIdx i ++ [t] }
  if i = 0 then l'.stopDriving else l'

/-- The telegram at place `i` is replaced in place (R181), and the LC stops driving when it contended with it
(R174). -/
def LinkController.replaceAt (l : LinkController) (i : Nat) (t : Telegram) : LinkController :=
  let l' := { l with txQueue := l.txQueue.set i t }
  if i = 0 then l'.stopDriving else l'

/-- Queuing a SIGHTING: discarded with REPORT_LOST at a full queue (R180). The Boolean tells that it was queued. -/
def queueSighting (g : Sighting) (s : State) : State × Bool :=
  if s.lc.txQueue.length < Config.transmitQueue then (s.setLc (s.lc.join (.sighting g)), true)
  else (s.raise .reportLost, false)

/-- The mark a returned HEADSTATE carried goes back to the pole mark register (R182). -/
def returnMark (register returned : Option PoleMark) : Option PoleMark :=
  match returned, register with
  | none, r => r
  | some m, none => some m
  | some _, some r => some { r with overwritten := true }

/-- A HEADSTATE that leaves the queue without being sent is returned (R182). -/
def returnHeadstate (h : Headstate) (s : State) : State :=
  (s.setLc { s.lc with sticky := s.lc.sticky ||| (h.sticky &&& ~~~StickyFlag.configBad.mask) }).setDu
    { s.du with mark := returnMark s.du.mark h.mark }

/-- The telegram at place `i` of the queue is returned if it is a HEADSTATE (R180, R182). -/
def returnAt (i : Nat) (s : State) : State :=
  match s.lc.txQueue[i]? with
  | some (.headstate h) => returnHeadstate h s
  | _ => s

/-- Queuing a HANDOVER: at a full queue it displaces the oldest SIGHTING, or else the HEADSTATE, not in transmission,
with REPORT_LOST; when neither can be displaced it is discarded (R180). -/
def queueHandover (h : Handover) (s : State) : State :=
  if s.lc.txQueue.length < Config.transmitQueue then s.setLc (s.lc.join (.handover h))
  else
    match s.lc.oldest Telegram.isSighting with
    | some i => (s.setLc (s.lc.displace i (.handover h))).raise .reportLost
    | none =>
      match s.lc.oldest Telegram.isHeadstate with
      | some i =>
        let s' := returnAt i s
        (s'.setLc (s'.lc.displace i (.handover h))).raise .reportLost
      | none => s.raise .reportLost

/-- The mark of a HEADSTATE that replaces an older one (R181). -/
def mergeMark (newer older : Option PoleMark) : Option PoleMark :=
  match newer, older with
  | none, m => m
  | some m, none => some m
  | some m, some _ => some { m with overwritten := true }

/-- A HEADSTATE that replaces an older one: the union of their flags, and the merged mark (R181). -/
def mergeHeadstate (newer older : Headstate) : Headstate :=
  { newer with sticky := newer.sticky ||| older.sticky, mark := mergeMark newer.mark older.mark }

/-- What queuing a HEADSTATE takes from the part: the sticky flags are cleared and the pole mark register is empty
(R16, R181, R185). -/
def takenByHeadstate (s : State) : State :=
  (s.setLc { s.lc with sticky := 0 }).setDu { s.du with mark := none }

/-- The HEADSTATE at place `i` of the queue. -/
def headstateAt (l : LinkController) (i : Nat) : Option Headstate :=
  match l.txQueue[i]? with
  | some (.headstate h) => some h
  | _ => none

/-- A HEADSTATE is in transmission (R175, R181). -/
def LinkController.sendsHeadstate (l : LinkController) : Bool :=
  l.tx == .sending && (l.txQueue.head?.map Telegram.isHeadstate).getD false

/-- Queuing a HEADSTATE with the contents it takes now (R181, log 24). -/
def queueHeadstate (s : State) : State :=
  let h := headstateOf s
  match s.lc.oldest Telegram.isHeadstate with
  | some i =>
    let merged := mergeHeadstate h ((headstateAt s.lc i).getD h)
    let s' := takenByHeadstate s
    s'.setLc (s'.lc.replaceAt i (.headstate merged))
  | none =>
    if s.lc.txQueue.length < Config.transmitQueue then
      let s' := takenByHeadstate s
      s'.setLc (s'.lc.join (.headstate h))
    else
      match s.lc.oldest Telegram.isSighting with
      | some i =>
        let s' := takenByHeadstate s
        s'.setLc (s'.lc.displace i (.headstate { h with sticky := h.sticky ||| StickyFlag.reportLost.mask }))
      | none => s.raise .reportLost

/-- A HEADSTATE falls due: it is queued at once, or once the HEADSTATE in transmission has left (R181). -/
def headstateDue (s : State) : State :=
  if s.lc.sendsHeadstate then s.setLc { s.lc with headstateDue := true } else queueHeadstate s

/-- A HEADSTATE that waited for one in transmission to leave is queued (R181). -/
def queueWaitingHeadstate (s : State) : State :=
  if s.lc.headstateDue then queueHeadstate (s.setLc { s.lc with headstateDue := false }) else s

end Sys2Proof.Machine
end

