-- ==== Sys2Proof/Machine/Stagger.lean ====
section
/-! DEFINITION. Stagger arithmetic (Chapter 9): car-frame lateral, attitude correction, accumulation and means. -/

namespace Sys2Proof.Machine

/-- The car-frame lateral of a centre in c16, for a head mounted at `mount` (R156). -/
def carLateral (mount : Int) (c16 : Nat) : Int := mount + roundHalfAway (((c16 : Int) - 16384) * 125) 8

/-- The lever arm of a hit, in mm (R157). -/
def leverArm (cfg : Startup) (height : Nat) : Nat := height + cfg.refHeight

/-- The stagger of a hit before the clamp: corrected with the held sample while FRESH or HELD (R161), the car-frame
lateral alone while LOST (R162). -/
def rawStagger (cfg : Startup) (su : StaggerUnit) (c : Candidate) : Int :=
  let lateral := carLateral cfg.mountOffset c.centre
  match su.state, su.sample with
  | .lost, _ => lateral
  | _, none => lateral
  | _, some a => lateral + a.lateral + roundHalfAway (leverArm cfg c.height * a.roll) 1000

/-- The stagger that is accumulated (R163). -/
def clampStagger (x : Int) : Int := clampInt (-1000000) 1000000 x

/-- An empty accumulation (R164). -/
def Accumulation.empty : Accumulation :=
  { staggerSum := 0, staggerMin := none, staggerMax := none, lateralSum := 0, heightSum := 0
    attHeld := false, uncorrected := false, clamped := false }

/-- One hit added to a lane's accumulation (R165). -/
def accumulate (cfg : Startup) (su : StaggerUnit) (c : Candidate) (a : Accumulation) : Accumulation :=
  let raw := rawStagger cfg su c
  let stagger := clampStagger raw
  { staggerSum := a.staggerSum + stagger
    staggerMin := some (match a.staggerMin with | none => stagger | some m => min m stagger)
    staggerMax := some (match a.staggerMax with | none => stagger | some m => max m stagger)
    lateralSum := a.lateralSum + carLateral cfg.mountOffset c.centre
    heightSum := a.heightSum + c.height
    attHeld := a.attHeld || su.state == .held
    uncorrected := a.uncorrected || su.state == .lost
    clamped := a.clamped || stagger != raw }

/-- The stagger mean of a lane with `n` hits (R167). -/
def Accumulation.staggerMean (a : Accumulation) (n : Nat) : Int := roundHalfAway a.staggerSum n

/-- The car-frame lateral mean of a lane with `n` hits (R167). -/
def Accumulation.lateralMean (a : Accumulation) (n : Nat) : Int := roundHalfAway a.lateralSum n

/-- The height mean of a lane with `n` hits (R167). -/
def Accumulation.heightMean (a : Accumulation) (n : Nat) : Nat := roundHalfUp a.heightSum n

/-- STAGGER_LIMIT on a lane's SIGHTING (R168). -/
def overStaggerLimit (cfg : Startup) (cls : Nat) (mean : Int) : Bool :=
  cfg.alertStagger && match cfg.classes[cls]? with
    | some c => c.staggerLimit < mean.natAbs
    | none => false

end Sys2Proof.Machine
end

