-- ==== Sys2Proof/Machine/WearUnit.lean ====
section
/-! DEFINITION. The wear computation on one lane (Chapter 8). Column c of the spec, from -32 to +31, is place c + 32
of a strip row here. -/

namespace Sys2Proof.Machine

/-- A lane result (R142). -/
structure LaneResult where
  wear : Option WearPart
  fewRows : Bool
  noFace : Bool
  windowEdge : Bool
  widthSaturated : Bool
  belowLimit : Bool
  deriving DecidableEq, Repr

/-- Wear absent and every wear flag clear (R142). -/
def LaneResult.clear : LaneResult :=
  { wear := none, fewRows := false, noFace := false, windowEdge := false, widthSaturated := false
    belowLimit := false }

/-- The vote of a column: the strip rows in which it holds T_face or more (R145). -/
def vote (tFace : Nat) (strips : List (List Nat)) (column : Nat) : Nat :=
  strips.countP fun row => tFace ≤ row.getD column 0

/-- A face column: bright in a strict majority of the rows (R145). -/
def isFace (tFace : Nat) (strips : List (List Nat)) (column : Nat) : Bool :=
  strips.length < 2 * vote tFace strips column

/-- The first column of the maximal run of face columns that holds a face column. -/
def runFirst (face : Nat → Bool) : Nat → Nat
  | 0 => 0
  | k + 1 => if face k then runFirst face k else k + 1

/-- The last column of the maximal run of face columns that holds face column `k`, with `fuel` columns after it. -/
def runLast (face : Nat → Bool) (k : Nat) : Nat → Nat
  | 0 => k
  | fuel + 1 => if face (k + 1) then runLast face (k + 1) fuel else k

/-- The columns 0, -1, +1, -2, +2, -3, +3, -4, +4 in which the face run is looked for (R146). -/
def faceOrder : List Nat := [32, 31, 33, 30, 34, 29, 35, 28, 36]

/-- The face run, as its first and last column (R146). -/
def faceRun (face : Nat → Bool) : Option (Nat × Nat) :=
  (faceOrder.find? face).map fun k => (runFirst face k, runLast face k (Config.columns - 1 - k))

/-- The width in 1/64 of a cell of the face run from `a` to `b` (R148). -/
def width64 (v : Nat → Nat) (n a b : Nat) : Nat :=
  64 * (b - a + 1) + 128 * v (a - 1) / n + 128 * v (b + 1) / n

/-- The worn width in µm (R149). -/
def wornWidth (w64 : Nat) : Nat := roundHalfUp (w64 * 125) 32

/-- The half width in µm (R150). -/
def halfWidth (w64 : Nat) : Nat := roundHalfUp (w64 * 125) 64

/-- The worn depth in µm (R151). -/
def wornDepth (r q : Nat) : Nat := if q < r then r - isqrt (r * r - q * q) else r

/-- The quality (R154). -/
def qualityOf (v : Nat → Nat) (n a b : Nat) : Nat :=
  255 * ((List.range (b - a + 1)).map fun k => v (a + k)).sum / ((b - a + 1) * n)

/-- The lane result of a lane of a bank, with the class its block latched (R142 to R154). -/
def laneResult (cfg : Startup) (cls : WireClass) (lane : Lane) : LaneResult :=
  let n := lane.strips.length
  let v := vote cfg.tFace lane.strips
  if n < 8 then { LaneResult.clear with fewRows := true }
  else
    match faceRun (isFace cfg.tFace lane.strips) with
    | none => { LaneResult.clear with noFace := true }
    | some (a, b) =>
      if a = 0 ∨ b = Config.columns - 1 then { LaneResult.clear with windowEdge := true }
      else if lane.crossing then LaneResult.clear
      else
        let w64 := width64 v n a b
        let q := halfWidth w64
        let height := cls.nominal - wornDepth cls.radius q
        { LaneResult.clear with
          wear := some { width := wornWidth w64, height := height, quality := qualityOf v n a b }
          widthSaturated := decide (cls.radius ≤ q)
          belowLimit := cfg.alertBelowLimit && decide (height < cls.wearLimit) }

end Sys2Proof.Machine
end

