-- ==== Sys2Proof/Machine/Blocks.lean ====
section
/-! DEFINITION. Blocks, lanes, banks and reports (Chapter 7): binding, stopping, opening, closing, settling and the
queuing of SIGHTINGs. -/

namespace Sys2Proof.Machine

/-! ### Lanes -/

/-- The last frame of a block, or the latest frame while it is open (R130, R133). -/
def Block.lastFrame (b : Block) (now : Word32) : Word32 := (b.closing.map (·.lastFrame)).getD now

/-- A frame belongs to a block (section 7.1). -/
def Block.holds (b : Block) (now f : Word32) : Bool := inFrames f b.openFrame (b.lastFrame now)

/-- The range of a lane of a block holds a frame (R133). -/
def Lane.covers (l : Lane) (b : Block) (now f : Word32) : Bool := inFrames f l.firstFrame (b.lastFrame now)

def Lane.isTaking (l : Lane) : Bool := l.status == .taking

/-- A change to the lanes of a block. -/
def Block.mapLanes (b : Block) (g : Lane → Lane) : Block := { b with lanes := b.lanes.map g }

/-- A change to the lanes of the open block and of the closed blocks not yet settled. -/
def StripStore.mapLanes (ss : StripStore) (g : Block → Lane → Lane) : StripStore :=
  { ss with openBlock := ss.openBlock.map fun b => b.mapLanes (g b)
            settling := ss.settling.map fun b => b.mapLanes (g b) }

/-- The three causes for which a lane stops (R136). -/
inductive StopCause where
  | ended
  | handed
  | yieldedDup
  deriving DecidableEq, Repr

/-- A TAKING lane stops with the flag of its cause (R136). -/
def Lane.stop (c : StopCause) (l : Lane) : Lane :=
  { l with status := .stopped
           ended := l.ended || c == .ended
           handed := l.handed || c == .handed
           yieldedDup := l.yieldedDup || c == .yieldedDup }

/-- Every TAKING lane of a tag stops, in the open block and in closed blocks not yet settled (R136). -/
def stopLanes (tag : Byte) (c : StopCause) (s : State) : State :=
  s.setSs (s.ss.mapLanes fun _ l => if l.isTaking && l.tag == tag then l.stop c else l)

/-- The lanes of a bank's settled block. -/
def Bank.lanes : Bank → List Lane
  | .waiting b => b.lanes
  | .computing b => b.lanes
  | _ => []

/-- Every lane whose SIGHTING has not yet been queued (R91). -/
def StripStore.heldLanes (ss : StripStore) : List Lane :=
  (ss.openBlock.map (·.lanes)).getD [] ++ ss.settling.flatMap (·.lanes) ++ ss.banks.flatMap Bank.lanes

/-- A new lane record for an entry (R128). -/
def newLane (e : Entry) (slot : Nat) (first : Word32) : Lane :=
  { slot := slot, tag := e.tag, origin := e.origin, firstFrame := first, status := .taking, strips := []
    hitFrames := 0, skipped := 0, absent := 0, acc := .empty, crossing := false, ended := false, handed := false
    yieldedDup := false, reclaimed := e.reclaimMark }

/-- The entry at an index, none when EMPTY. -/
def TrackTable.entry (t : TrackTable) (i : Nat) : Option Entry := t.entries.getD i none

/-- Replacing the entry at an index. -/
def State.setEntry (s : State) (i : Nat) (e : Option Entry) : State :=
  s.setTt { s.tt with entries := s.tt.entries.set i e }

/-- Offering a lane to the entry at an index (R84, R129): bound when a block is open that has bound fewer than 8, with
the next slot; the entry's lane names it and its reclaim mark is cleared (R116). -/
def offerLane (i : Nat) (first : Word32) (s : State) : State :=
  match s.ss.openBlock, s.tt.entry i with
  | some b, some e =>
    if b.lanes.length < Config.lanes then
      let slot := b.lanes.length
      (s.setSs { s.ss with openBlock := some { b with lanes := b.lanes ++ [newLane e slot first] } }).setEntry i
        (some { e with lane := some slot, reclaimMark := false })
    else s
  | _, _ => s

/-- A strip row: the 64 processed cells around cell c, cells outside the sector giving 0 (R134). -/
def stripRow (processed : List Nat) (c : Nat) : List Nat :=
  (List.range Config.columns).map fun k => if c + k < 32 then 0 else processed.getD (c + k - 32) 0

/-- One hit written into a lane (R133, R134, R165). A shared hit marks CROSSING on a FULL row (R94), there also where no
strip row is written: DEDUCED (log 10). -/
def writeHit (cfg : Startup) (su : StaggerUnit) (row : RowInProcess) (c : Candidate) (shared : Bool) (b : Block)
    (l : Lane) : Lane :=
  { l with
    hitFrames := l.hitFrames + 1
    acc := accumulate cfg su c l.acc
    crossing := l.crossing || shared && row.cls == .full
    strips := if row.cls = .full ∧ b.bank.isSome ∧ l.strips.length < Config.stripRows then
        l.strips ++ [stripRow row.processed (c.centre / 16)]
      else l.strips }

/-- A hit handed on goes to the TAKING lane of the entry's tag whose range holds the row's frame (R94, R133). -/
def handOnHit (cfg : Startup) (row : RowInProcess) (tag : Byte) (c : Candidate) (shared : Bool) (s : State) : State :=
  s.setSs (s.ss.mapLanes fun b l =>
    if l.isTaking && l.tag == tag && l.covers b s.du.frameIndex row.frame then writeHit cfg s.su row c shared b l
    else l)

/-! ### Reports -/

/-- A lane's SIGHTING (R139, R155, R167, R168). -/
def sightingOf (cfg : Startup) (b : Block) (r : LaneResult) (l : Lane) : Sighting :=
  let closing := b.closing.getD ⟨b.openFrame, b.openDistance⟩
  let mean := l.acc.staggerMean l.hitFrames
  { tag := l.tag, blockSeq := b.seq, run := b.run, cls := b.cls, openFrame := b.openFrame
    openDistance := b.openDistance, closeDistance := closing.distance
    frames := framesFrom b.openFrame closing.lastFrame
    hitFrames := l.hitFrames, rows := l.strips.length, missing := l.skipped + l.absent
    staggerMean := mean, staggerMin := l.acc.staggerMin.getD 0, staggerMax := l.acc.staggerMax.getD 0
    lateralMean := l.acc.lateralMean l.hitFrames, heightMean := l.acc.heightMean l.hitFrames
    flags := sightFlags
      [(.wearPresent, r.wear.isSome), (.originPresent, l.origin.isSome), (.crossing, l.crossing),
        (.noFace, r.noFace), (.fewRows, r.fewRows), (.widthSaturated, r.widthSaturated),
        (.windowEdge, r.windowEdge), (.bankStarved, b.starved), (.belowLimit, r.belowLimit),
        (.staggerLimit, overStaggerLimit cfg b.cls mean), (.attHeld, l.acc.attHeld),
        (.uncorrected, l.acc.uncorrected), (.ambient, b.ambient), (.decimated, b.decimated),
        (.ended, l.ended), (.handed, l.handed), (.yieldedDup, l.yieldedDup), (.reclaimed, l.reclaimed),
        (.clamped, l.acc.clamped), (.shortBlock, b.short)]
    wear := r.wear, origin := l.origin }

/-- The entry of a tag that still holds an origin has it cleared (R111); no other entry does: DEDUCED (log 11). -/
def clearOrigin (tag : Byte) (o : Origin) (s : State) : State :=
  s.setTt { s.tt with
    entries := s.tt.entries.map fun p => p.map fun e =>
      if e.tag = tag ∧ e.origin = some o then { e with origin := none } else e }

/-- Queuing a lane's SIGHTING: none for a lane without hits (R138), and the origin of one that was queued is cleared
in its entry (R111, R139, R180). -/
def reportLane (cfg : Startup) (b : Block) (result : Lane → LaneResult) (s : State) (l : Lane) : State :=
  if l.hitFrames = 0 then s
  else
    let q := queueSighting (sightingOf cfg b (result l) l) s
    match q.2, l.origin with
    | true, some o => clearOrigin l.tag o q.1
    | _, _ => q.1

/-- Queuing the SIGHTINGs of a block in order of lane slot (R138, R140). -/
def reportBlock (cfg : Startup) (b : Block) (result : Lane → LaneResult) (s : State) : State :=
  b.lanes.foldl (reportLane cfg b result) s

/-- The lane result by the class the block latched (R142, R143). -/
def resultOf (cfg : Startup) (b : Block) (l : Lane) : LaneResult :=
  match cfg.classes[b.cls]? with
  | some cls => laneResult cfg cls l
  | none => .clear

/-! ### Banks -/

/-- The state of a bank. -/
def StripStore.setBank (ss : StripStore) (k : Nat) (x : Bank) : StripStore := { ss with banks := ss.banks.set k x }

/-- The FREE bank with the lower number (R127). -/
def StripStore.freeBank (ss : StripStore) : Option Nat := ss.banks.findIdx? (· == .free)

/-- A bank becomes COMPUTING and the Wear Unit takes it; a bank none of whose lanes has a hit completes at once and
becomes FREE in the same step: DEDUCED (R137, log 18). -/
def startCompute (k : Nat) (b : Block) (s : State) : State :=
  if b.lanes.any (fun l => l.hitFrames != 0) then
    s.setSs { s.ss.setBank k (.computing b) with computing := some k }
  else s.setSs { s.ss.setBank k .free with computing := none }

/-- The WAITING bank and its block, if there is one. -/
def StripStore.waitingBank (ss : StripStore) : Option (Nat × Block) :=
  ss.banks.zipIdx.findSome? fun p =>
    match p.1 with
    | .waiting b => some (p.2, b)
    | _ => none

/-! ### Closing and settling -/

/-- The frames the Front End holds: expected, queued, in process, or of a cycle whose exposure has not begun (R132). -/
def heldFrames (s : State) : List Word32 :=
  s.fe.expected.map (·.frame) ++ s.fe.queue.map (·.frame) ++ (s.fe.inProcess.map (·.frame)).toList
    ++ ((s.ec.cycle.filter fun c => c.phase = .waiting).map (·.frame)).toList

/-- The Front End holds a frame of a block (R132). -/
def owesFrames (s : State) (b : Block) : Bool := (heldFrames s).any fun f => b.holds s.du.frameIndex f

/-- At settling a TAKING lane becomes DONE (R132). -/
def Lane.finish (l : Lane) : Lane := if l.isTaking then { l with status := .done } else l

/-- A closed block settles (R132, R140): discarded without lanes, reported at once when starved, computed when the
Wear Unit is idle, and left WAITING when it is busy. -/
def settleBlock (cfg : Startup) (s : State) (b : Block) : State :=
  let b' := b.mapLanes Lane.finish
  match b'.bank with
  | none => reportBlock cfg b' (fun _ => .clear) s
  | some k =>
    if b'.lanes = [] then s.setSs (s.ss.setBank k .free)
    else if s.ss.computing = none then startCompute k b' s
    else s.setSs (s.ss.setBank k (.waiting b'))

/-- Each closed block of which the Front End holds no frame settles (R132). -/
def settleReady (cfg : Startup) (s : State) : State :=
  (s.ss.settling.filter fun b => !owesFrames s b).foldl (settleBlock cfg)
    (s.setSs { s.ss with settling := s.ss.settling.filter fun b => owesFrames s b })

/-- The lit frames of a starved block that the Front End still holds are counted absent at its close (R132). The frame
of a row in process is held until its release, so a row already associated counts here besides its hit: DESIGN CHOICE
(log 30). -/
def countOwed (s : State) (b : Block) : Block :=
  b.mapLanes fun l =>
    if l.isTaking then
      { l with absent := l.absent + ((heldFrames s).filter fun f =>
          !isDark f && b.holds s.du.frameIndex f && l.covers b s.du.frameIndex f).length }
    else l

/-- The block as its close leaves it (R130). -/
def Block.close (b : Block) (last distance : Word32) : Block :=
  { b with closing := some ⟨last, distance⟩, short := framesFrom b.openFrame last < 32 }

/-- The open block closes with the given last frame (R130). One with no lanes and one that is starved settle at their
close; any other waits until the Front End holds none of its frames (R132). -/
def closeBlock (cfg : Startup) (last : Word32) (s : State) : State :=
  match s.ss.openBlock with
  | none => s
  | some b =>
    let b' := b.close last s.du.distance
    let s' := (s.setSs { s.ss with openBlock := none }).setTt
      { s.tt with entries := s.tt.entries.map fun p => p.map fun e => { e with lane := none } }
    if b'.bank = none then settleBlock cfg s' (countOwed s' b')
    else if b'.lanes = [] ∨ owesFrames s' b' = false then settleBlock cfg s' b'
    else s'.setSs { s'.ss with settling := s'.ss.settling ++ [b'] }

/-- A block closes for a cause that makes the frame of the latest trigger its last (R130). -/
def closeNow (cfg : Startup) (s : State) : State := closeBlock cfg s.du.frameIndex s

/-- The natural end at the treatment of frame `f`: the open block closes when `f` is its frame whose index mod 32 is
31 (R131). -/
def naturalEnd (cfg : Startup) (f : Word32) (s : State) : State :=
  match s.ss.openBlock with
  | some b => if f.toNat % 32 = 31 ∧ b.holds s.du.frameIndex f then closeBlock cfg f s else s
  | none => s

/-! ### Absent and skipped frames -/

/-- A frame becomes absent (R40, R135): a lit one is counted in each TAKING lane whose range holds it, and the block's
frame 31 ends its block (R131). -/
def frameAbsent (cfg : Startup) (s : State) (f : Word32) : State :=
  let counted := if isDark f then s else
    s.setSs (s.ss.mapLanes fun b l =>
      if l.isTaking && l.covers b s.du.frameIndex f then { l with absent := l.absent + 1 } else l)
  naturalEnd cfg f counted

/-- The treatment of a frame that becomes absent and is held no more: with it the closed blocks of which the Front End
holds no other frame settle, before it treats another frame (R40, R132). -/
def treatAbsent (cfg : Startup) (s : State) (f : Word32) : State := settleReady cfg (frameAbsent cfg s f)

/-- A skipped lit frame counted in each TAKING lane of a block (R135). -/
def skipInLanes (b : Block) : Block :=
  b.mapLanes fun l => if l.isTaking then { l with skipped := l.skipped + 1 } else l

/-- A skipped frame (R12, R135): a lit one is counted in each TAKING lane of the open block, and the block's frame 31
ends its block (R131). -/
def frameSkipped (cfg : Startup) (f : Word32) (s : State) : State :=
  let counted := if isDark f then s else
    s.setSs { s.ss with openBlock := s.ss.openBlock.map skipInLanes }
  naturalEnd cfg f counted

/-! ### Opening -/

/-- A lane for each OWNED or COASTING entry, in order of entry index, as long as the block can bind one (R128). -/
def bindAtOpening (f : Word32) (s : State) : State :=
  (List.range Config.entries).foldl
    (fun s i =>
      match s.tt.entry i with
      | some e => if e.state = .owned ∨ e.state = .coasting then offerLane i f s else s
      | none => s) s

/-- A frame trigger opens a block (R127): the governor evaluates (R63), DECIMATED is recorded below keep factor 8
(R67), the lower FREE bank is taken or the block is starved, and the lanes are bound. -/
def openBlock (cfg : Startup) (s : State) : State :=
  let s1 := governorEvaluate cfg s
  let seq := s1.ss.blockSeq + 1
  let bank := s1.ss.freeBank
  let b : Block :=
    { seq := seq, run := s1.src.runNumber, cls := s1.src.pendingClass, openFrame := s1.du.frameIndex
      openDistance := s1.du.distance, closing := none, bank := bank, lanes := [], ambient := false
      decimated := decide (s1.keep < 8), starved := bank.isNone, short := false }
  let ss1 := match bank with
    | some k => s1.ss.setBank k (.filling seq)
    | none => s1.ss
  let s2 := (s1.setSs { ss1 with openBlock := some b, blockSeq := seq }).setSrc
    { s1.src with currentClass := s1.src.pendingClass }
  bindAtOpening s2.du.frameIndex (s2.raiseIf bank.isNone .bankStarved)

end Sys2Proof.Machine
end

