-- ==== Sys2Proof/Machine/Tracks.lean ====
section
/-! DEFINITION. The Track Table's operations (Chapter 5): gates, association, updates, merging, creation, eviction,
and the ownership tests of Chapter 6. -/

namespace Sys2Proof.Machine

/-! ### Entries -/

def clampPosition (x : Int) : Int := clampInt (-8000000) 8000000 x
def clampRate (v : Int) : Int := clampInt (-4000) 4000 v

/-- A confirmed entry (R69). -/
def Entry.isConfirmed (e : Entry) : Bool := e.state != .tentative

/-- The gate of an entry (R75). -/
def Entry.gate (e : Entry) : Int :=
  match e.state with
  | .tentative => 12000
  | .coasting => min (3000 + 1000 * (e.misses : Int)) 11000
  | .owned | .watched | .yielded => 3000

/-- The entry advanced by its rate (R71). -/
def Entry.advance (e : Entry) : Entry := { e with x := clampPosition (e.x + e.v) }

/-- The younger of two entries has the later creation sequence, read as a signed difference (R92). -/
def Entry.youngerThan (a b : Entry) : Bool := 0 < (a.seq - b.seq).toInt

/-- A position lies in a zone (R83). -/
def Zone.holds (z : Zone) (x : Int) : Bool := z.left ≤ x && x < z.right

/-- The distance of a position from a zone (R93). -/
def Zone.distance (z : Zone) (x : Int) : Int :=
  if x < z.left then z.left - x else if z.right ≤ x then x - z.right else 0

/-- A change to every non-empty entry. -/
def State.mapEntries (s : State) (g : Entry → Entry) : State :=
  s.setTt { s.tt with entries := s.tt.entries.map fun p => p.map g }

/-- An entry that names `i` as its partner has it set to none and its shared streak to 0 (R85). -/
def Entry.dropPartner (i : Nat) (e : Entry) : Entry :=
  if e.partner = some i then { e with partner := none, sharedStreak := 0 } else e

/-- The entry at an index is freed: it becomes EMPTY, partners are cleared, and the TAKING lanes of its tag stop with
ENDED (R85). -/
def freeEntry (i : Nat) (s : State) : State :=
  match s.tt.entry i with
  | none => s
  | some e => stopLanes e.tag .ended ((s.setEntry i none).mapEntries (Entry.dropPartner i))

/-! ### Tags and new entries -/

/-- A tag is in use (R91). -/
def tagInUse (s : State) (t : Byte) : Bool :=
  s.tt.entries.any (fun p => match p with | some e => e.tag == t | none => false)
    || s.ss.heldLanes.any (fun l => l.tag == t)

/-- The first tag not in use from the next-tag counter up (R91). -/
def nextFreeTag (s : State) : Byte :=
  (((List.range 256).map fun k => s.tt.nextTag + BitVec.ofNat 8 k).find? fun t => !tagInUse s t).getD s.tt.nextTag

/-- The free position with the lowest entry index (R89). -/
def TrackTable.freePosition (t : TrackTable) : Option Nat := t.entries.findIdx? Option.isNone

/-- A new entry takes a tag and a creation sequence and stands at a position of the table (R89, R91, R92). -/
def placeEntry (i : Nat) (make : Byte → Word32 → Entry) (s : State) : State :=
  let tag := nextFreeTag s
  let seq := s.tt.creationSeq + 1
  s.setTt { s.tt with
    entries := s.tt.entries.set i (some (make tag seq)), nextTag := tag + 1, creationSeq := seq }

/-! ### Eviction -/

/-- The first of the listed entries that no other beats, by a relation that says when one goes before another. -/
def pickFirst (before : Entry → Entry → Bool) : List (Nat × Entry) → Option (Nat × Entry)
  | [] => none
  | p :: ps =>
    match pickFirst before ps with
    | none => some p
    | some q => if before q.2 p.2 then some q else some p

/-- The non-empty entries with their indices, less those made in the current row (R90). -/
def TrackTable.evictable (t : TrackTable) (made : List Nat) : List (Nat × Entry) :=
  t.entries.zipIdx.filterMap fun p =>
    if made.contains p.2 then none else p.1.map fun e => (p.2, e)

/-- TENTATIVE victims: fewest hits, then the younger (R93). -/
def beforeTentative (a b : Entry) : Bool := a.hits < b.hits || a.hits == b.hits && a.youngerThan b

/-- WATCHED victims: farthest from the own zone, then the younger (R93). -/
def beforeWatched (z : Zone) (a b : Entry) : Bool :=
  z.distance b.x < z.distance a.x || z.distance a.x == z.distance b.x && a.youngerThan b

/-- COASTING victims: most misses, then the younger (R93). -/
def beforeCoasting (a b : Entry) : Bool := b.misses < a.misses || a.misses == b.misses && a.youngerThan b

/-- The victim of an eviction, none when no entry qualifies (R93). -/
def victim (t : TrackTable) (made : List Nat) : Option Nat :=
  let es := t.evictable made
  let sort (st : EntryState) := es.filter fun p => p.2.state == st
  ((pickFirst beforeTentative (sort .tentative)).orElse fun _ =>
    (pickFirst (beforeWatched t.zone) (sort .watched)).orElse fun _ =>
      pickFirst beforeCoasting (sort .coasting)).map (·.1)

/-- A position for a new entry: a free one, or a victim's after its eviction; none when no entry qualifies (R89, R93,
R110). -/
def makeRoom (made : List Nat) (s : State) : Option (Nat × State) :=
  match s.tt.freePosition with
  | some i => some (i, s)
  | none => (victim s.tt made).map fun i => (i, freeEntry i s)

/-! ### Association -/

/-- A pair of an entry and a candidate within its gate, with its error (R74, R76). -/
structure Pairing where
  entry : Nat
  cand : Nat
  err : Int
  deriving DecidableEq, Repr

/-- Every pair of a non-empty entry and a candidate within its gate (R76). -/
def pairings (mount : Int) (entries : List (Option Entry)) (cands : List Candidate) : List Pairing :=
  entries.zipIdx.flatMap fun p =>
    match p.1 with
    | none => []
    | some e => cands.zipIdx.filterMap fun c =>
        let err := carLateral mount c.1.centre - e.x
        if (err.natAbs : Int) ≤ e.gate then some ⟨p.2, c.2, err⟩ else none

/-- The order of the walk: absolute error, then entry index, then candidate index (R76). -/
def Pairing.before (a b : Pairing) : Bool :=
  a.err.natAbs < b.err.natAbs
    || a.err.natAbs == b.err.natAbs && (a.entry < b.entry || a.entry == b.entry && a.cand < b.cand)

def insertPairing (p : Pairing) : List Pairing → List Pairing
  | [] => [p]
  | q :: qs => if q.before p then q :: insertPairing p qs else p :: q :: qs

/-- The pairs sorted for the walk (R76). -/
def sortPairings (ps : List Pairing) : List Pairing := ps.foldr insertPairing []

/-- The entries that have taken or shared a candidate, in the order in which they did. -/
def takers (taken : List Pairing) (cand : Nat) : List Nat := (taken.filter fun p => p.cand == cand).map (·.entry)

/-- Entry E may share a candidate that entry F has taken (R77): both confirmed, predictions no more than 6,000 µm
apart, and no untaken candidate within E's gate. -/
def mayShare (entries : List (Option Entry)) (all taken : List Pairing) (e f : Nat) : Bool :=
  match entries.getD e none, entries.getD f none with
  | some a, some b =>
    a.isConfirmed && b.isConfirmed && decide ((a.x - b.x).natAbs ≤ 6000)
      && !all.any (fun p => p.entry == e && (takers taken p.cand).isEmpty)
  | _, _ => false

/-- One pair of the walk (R76). -/
def walkPair (entries : List (Option Entry)) (all taken : List Pairing) (p : Pairing) : List Pairing :=
  if taken.any (fun q => q.entry == p.entry) then taken
  else
    match takers taken p.cand with
    | [] => taken ++ [p]
    | [f] => if mayShare entries all taken p.entry f then taken ++ [p] else taken
    | _ => taken

/-- The table as the association of a row sees it: an entry that did not exist when the gates of a GATE_ONLY row were
taken takes no part, and so has a miss for that row (R79), also where another entry's gate has found a run within its
own: DEDUCED (log 29). -/
def RowInProcess.searchedFor (row : RowInProcess) (entries : List (Option Entry)) : List (Option Entry) :=
  if row.cls = .gateOnly then entries.map fun p => p.filter fun e => row.gates.any fun g => g.seq == e.seq
  else entries

/-- The association of a row: the pairs by which entries take or share candidates (R76, R77). -/
def associate (mount : Int) (entries : List (Option Entry)) (cands : List Candidate) : List Pairing :=
  let all := pairings mount entries cands
  (sortPairings all).foldl (walkPair entries all) []

/-- What an entry gets from the association. -/
inductive RowResult where
  /-- an ordinary hit, with its candidate and error -/
  | hit (cand : Nat) (err : Int)
  /-- a shared hit, with its candidate, error and the other taker -/
  | shared (cand : Nat) (err : Int) (other : Nat)
  | miss
  deriving DecidableEq, Repr

/-- The result of the association for the entry at an index (R76, R78). -/
def rowResult (taken : List Pairing) (i : Nat) : RowResult :=
  match taken.find? (fun p => p.entry == i) with
  | none => .miss
  | some p =>
    match (takers taken p.cand).find? (· != i) with
    | none => .hit p.cand p.err
    | some j => .shared p.cand p.err j

/-! ### Updates -/

/-- The hit update of position, rate, height, misses and hits, with the streak cleared (R80, R86). -/
def Entry.hitUpdate (e : Entry) (err : Int) (height : Nat) : Entry :=
  { e with
    x := clampPosition (e.x + err.tdiv 2)
    v := clampRate (e.v + err.tdiv 8)
    height := height
    misses := 0
    hits := if e.state = .tentative then e.hits + 1 else e.hits
    partner := none
    sharedStreak := 0 }

/-- The shared-hit update, with the streak counted (R81, R86). -/
def Entry.sharedUpdate (e : Entry) (err : Int) (height other : Nat) : Entry :=
  { e with
    x := clampPosition (e.x + err.tdiv 2)
    height := height
    misses := 0
    partner := some other
    sharedStreak := if e.partner = some other then min (e.sharedStreak + 1) 16 else 1 }

/-- The miss update of a confirmed entry, before it is freed at 8 misses (R82, R83, R86). -/
def Entry.missUpdate (e : Entry) : Entry :=
  { e with
    misses := if e.state = .owned then 1 else e.misses + 1
    state := if e.state = .owned then .coasting else e.state
    partner := none
    sharedStreak := 0 }

/-- The state after a hit or shared hit, by the position the update left (R83). -/
def Entry.stateOnHit (e : Entry) (z : Zone) : EntryState :=
  match e.state with
  | .tentative => if 3 ≤ e.hits then (if z.holds e.x then .owned else .watched) else .tentative
  | .coasting => .owned
  | .owned => .owned
  | .watched => .watched
  | .yielded => .yielded

/-- The entry after a hit, with its new state (R80, R83). -/
def Entry.afterHit (e : Entry) (z : Zone) (err : Int) (height : Nat) : Entry :=
  let u := e.hitUpdate err height
  { u with state := u.stateOnHit z }

/-- The entry after a shared hit, with its new state (R81, R83). -/
def Entry.afterShared (e : Entry) (z : Zone) (err : Int) (height other : Nat) : Entry :=
  let u := e.sharedUpdate err height other
  { u with state := u.stateOnHit z }

/-- The update of the entry at an index from the row (R80 to R84): an entry confirmed as OWNED is offered a lane from
the row's frame, and one whose misses reach 8, or that is TENTATIVE and misses, is freed. -/
def updateEntry (row : RowInProcess) (taken : List Pairing) (s : State) (i : Nat) : State :=
  match s.tt.entry i with
  | none => s
  | some e =>
    match rowResult taken i with
    | .hit c err =>
      let u := e.afterHit s.tt.zone err ((row.candidates[c]?.map (·.height)).getD 0)
      let s' := s.setEntry i (some u)
      if e.state = .tentative ∧ u.state = .owned then offerLane i row.frame s' else s'
    | .shared c err j =>
      s.setEntry i (some (e.afterShared s.tt.zone err ((row.candidates[c]?.map (·.height)).getD 0) j))
    | .miss =>
      if e.state = .tentative then freeEntry i s
      else if 8 ≤ e.missUpdate.misses then freeEntry i s
      else s.setEntry i (some e.missUpdate)

/-- The updates of a row, in order of entry index (R80). -/
def updateEntries (row : RowInProcess) (taken : List Pairing) (s : State) : State :=
  (List.range Config.entries).foldl (updateEntry row taken) s

/-! ### Merging -/

/-- Two entries are duplicates (R86). -/
def areDuplicates (i j : Nat) (a b : Entry) : Bool :=
  a.isConfirmed && b.isConfirmed && a.partner == some j && b.partner == some i
    && a.sharedStreak == 16 && b.sharedStreak == 16 && decide ((a.v - b.v).natAbs ≤ 100)

/-- The entry at an index and its partner merge when they are duplicates: the younger is freed (R86). -/
def mergeAt (s : State) (i : Nat) : State :=
  match s.tt.entry i with
  | some a =>
    match a.partner with
    | some j =>
      match s.tt.entry j with
      | some b =>
        if i < j ∧ areDuplicates i j a b then freeEntry (if a.youngerThan b then i else j) s else s
      | none => s
    | none => s
  | none => s

/-- Duplicate merging after the updates of a row (R86). -/
def mergeDuplicates (s : State) : State := (List.range Config.entries).foldl mergeAt s

/-! ### Creation -/

/-- A new TENTATIVE entry from a candidate (R89). -/
def tentativeEntry (m : Int) (height : Nat) (tag : Byte) (seq : Word32) : Entry :=
  { state := .tentative, tag := tag, seq := seq, x := m, v := 0, hits := 1, misses := 0, height := height
    origin := none, yieldAge := 0, sharedStreak := 0, partner := none, lane := none, yieldTarget := none
    reclaimMark := false }

/-- Every non-empty entry lies more than 12,000 µm from a position (R87, R88). -/
def farFromAll (t : TrackTable) (m : Int) : Bool :=
  t.entries.all fun p => match p with | some e => 12000 < (m - e.x).natAbs | none => true

/-- One untaken candidate of a FULL row: it starts a new entry, fails the tests, or raises TABLE_SATURATED (R87,
R90). `made` lists the positions of the entries made in the row. -/
def createFrom (mount : Int) (acc : List Nat × State) (c : Candidate) : List Nat × State :=
  let m := carLateral mount c.centre
  if c.clipped = .no ∧ farFromAll acc.2.tt m then
    match makeRoom acc.1 acc.2 with
    | some (i, s') => (i :: acc.1, placeEntry i (tentativeEntry m c.height) s')
    | none => (acc.1, acc.2.raise .tableSaturated)
  else acc

/-- The candidates that no entry took or shared, in order of candidate index (R87). -/
def untaken (taken : List Pairing) (cands : List Candidate) : List Candidate :=
  (cands.zipIdx.filter fun p => (takers taken p.2).isEmpty).map (·.1)

/-- Creation after the updates and merging of a row, on FULL rows only (R87). -/
def createEntries (mount : Int) (row : RowInProcess) (taken : List Pairing) (s : State) : State :=
  if row.cls = .full then ((untaken taken row.candidates).foldl (createFrom mount) ([], s)).2 else s

/-! ### Ownership tests -/

/-- The target of a handover, none when the entry stays (R105). -/
def handoverTarget (z : Zone) (x : Int) : Option Nat :=
  if z.right + 8000 ≤ x ∧ z.rightSetBy.isSome then z.rightSetBy
  else if x < z.left - 8000 ∧ z.leftSetBy.isSome then z.leftSetBy
  else none

/-- The HANDOVER of an entry (R106). -/
def handoverTelegram (e : Entry) (target : Nat) (frame : Word32) : Handover :=
  { target := target, tag := e.tag, x := e.x, v := e.v, height := e.height
    frame := BitVec.ofNat 16 frame.toNat }

/-- The entry handed over becomes YIELDED (R106). -/
def Entry.yieldTo (e : Entry) (target : Nat) : Entry :=
  { e with state := .yielded, yieldAge := 0, yieldTarget := some target, reclaimMark := false, lane := none }

/-- Handing over the entry at an index (R106). -/
def handOver (i : Nat) (e : Entry) (target : Nat) (s : State) : State :=
  stopLanes e.tag .handed
    ((queueHandover (handoverTelegram e target s.du.frameIndex) s).setEntry i (some (e.yieldTo target)))

/-- A WATCHED entry is taken over (R119). -/
def takesOver (z : Zone) (x : Int) : Bool := decide (z.left + 8000 ≤ x) && decide (x < z.right - 8000)

/-- The ownership test of the entry at an index (R104, R105, R119). -/
def ownershipTest (frame : Word32) (s : State) (i : Nat) : State :=
  match s.tt.entry i with
  | none => s
  | some e =>
    match e.state with
    | .owned | .coasting =>
      match handoverTarget s.tt.zone e.x with
      | some target => handOver i e target s
      | none => s
    | .watched =>
      if takesOver s.tt.zone e.x then offerLane i frame (s.setEntry i (some { e with state := .owned })) else s
    | .tentative | .yielded => s

/-- The ownership tests of a row, in order of entry index (R104). -/
def ownershipTests (row : RowInProcess) (s : State) : State :=
  (List.range Config.entries).foldl (ownershipTest row.frame) s

/-! ### Handing on hits -/

/-- The hit of the entry at an index goes to its lane, unless the entry was freed or replaced since the association
(R94); `before` is the table as the association found it. -/
def handOn (cfg : Startup) (row : RowInProcess) (taken : List Pairing) (before : TrackTable) (s : State) (i : Nat) :
    State :=
  match before.entry i, s.tt.entry i with
  | some e, some e' =>
    if e.seq = e'.seq then
      match rowResult taken i with
      | .hit c _ => (row.candidates[c]?.map fun cand => handOnHit cfg row e'.tag cand false s).getD s
      | .shared c _ _ => (row.candidates[c]?.map fun cand => handOnHit cfg row e'.tag cand true s).getD s
      | .miss => s
    else s
  | _, _ => s

/-- The hits of a row are handed on in order of entry index (R94). -/
def handOnHits (cfg : Startup) (row : RowInProcess) (taken : List Pairing) (before : TrackTable) (s : State) : State :=
  (List.range Config.entries).foldl (handOn cfg row taken before) s

/-- The whole treatment of a lit row by the Track Table: association, updates, merging, creation, ownership tests and
the handing on of hits (R76, R79, R104). -/
def treatRow (cfg : Startup) (row : RowInProcess) (s : State) : State :=
  let taken := associate cfg.mountOffset (row.searchedFor s.tt.entries) row.candidates
  handOnHits cfg row taken s.tt
    (ownershipTests row
      (createEntries cfg.mountOffset row taken
        (mergeDuplicates (updateEntries row taken s))))

end Sys2Proof.Machine
end

