-- ==== Sys2Proof/Machine/Trigger.lean ====
section
/-! DEFINITION. The frame trigger, and what a tick and a trigger leave due.

A TICK that brings the down-counter to zero makes the frame trigger due, and the ageing at a frame trigger can make
six further events due: a reclaim (R116), a neighbour's absence (R101), the end of a not-taking count (R117), the end
of SETTLING (R29), and the attitude states HELD and LOST (R159). The table lists each as a command of its own. The
part takes them at that same tick, so nothing else may come between (R20, R79): each command below takes its event
when it is due, and every other command first takes all that is still due (`catchUp`, log 3). -/

namespace Sys2Proof.Machine

/-! ### The parts of a frame trigger -/

/-- The Distance Unit's part: the down-counter is reloaded (R4), the frame index increases (R5), the trigger counts in
the running window (R6). -/
def triggerDu (cfg : Startup) (d : DistanceUnit) : DistanceUnit :=
  { d with downCounter := cfg.pitch, frameIndex := d.frameIndex + 1, rateRunning := min (d.rateRunning + 1) 255 }

/-- A record aged at a frame trigger (R101). -/
def Neighbour.aged (r : Neighbour) : Neighbour :=
  { r with age := if r.state = .present then min (r.age + 1) 128 else r.age, notTaking := r.notTaking - 1 }

/-- An entry at a frame trigger: its prediction (R71) and, when YIELDED, its yield age (R114). -/
def Entry.atTrigger (e : Entry) : Entry :=
  { e.advance with yieldAge := if e.state = .yielded then min (e.yieldAge + 1) 80 else e.yieldAge }

/-- The Exposure Controller's slot at a frame trigger: a pending slot becomes current (R28), and the settle count
decreases while SETTLING (R29). -/
def triggerSlot (e : ExposureController) : ExposureController :=
  { e with
    currentSlot := e.announced
    pendingSlot := none
    settleCount := if e.state = .settling then e.settleCount - 1 else e.settleCount }

/-- The attitude age at a frame trigger (R159). -/
def StaggerUnit.aged (u : StaggerUnit) : StaggerUnit :=
  { u with age := if u.sample.isSome then min (u.age + 1) 1024 else u.age }

/-- A slot cycle for a frame, in slot `slot`, with the times of R9; no clock runs to them (log 19). -/
def newCycle (cfg : Startup) (frame : Word32) (slot : Nat) : SlotCycle :=
  { frame := frame, slot := slot, riseAt := 60 * slot + 10, fallAt := 60 * slot + 10 + cfg.exposure
    phase := .waiting }

/-- The ageing at a frame trigger: Distance Unit, Neighbour List, entries, zone, slot and attitude (R4, R5, R71, R101,
R28, R159). -/
def triggerAgeing (cfg : Startup) (s : State) : State :=
  let s1 := (((s.setDu (triggerDu cfg s.du)).setNl (s.nl.map Neighbour.aged)).mapEntries Entry.atTrigger)
  ((latchZone cfg s1).setEc (triggerSlot s.ec)).setSu s.su.aged

/-- The Strip Store and the governor at a frame trigger: the natural end at index mod 32 = 0 (R131), an opening in RUN
with no block open (R127), and outside RUN an evaluation at index mod 32 = 0 (R64). -/
def triggerBlocks (cfg : Startup) (s : State) : State :=
  let f := s.du.frameIndex
  let s1 := if f.toNat % 32 = 0 then closeBlock cfg (f - 1) s else s
  if s1.src.runState = .run then
    if s1.ss.openBlock = none then openBlock cfg s1 else s1
  else if f.toNat % 32 = 0 then governorEvaluate cfg s1 else s1

/-- The slot cycle at a frame trigger: a new cycle, or a skipped frame while one is in progress (R8, R12). -/
def triggerExposure (cfg : Startup) (s : State) : State :=
  match s.ec.cycle with
  | none => s.setEc { s.ec with cycle := some (newCycle cfg s.du.frameIndex s.ec.currentSlot) }
  | some _ => (frameSkipped cfg s.du.frameIndex s).raise .frameSkipped

/-- A HEADSTATE is due at each frame whose index mod 32 is 31 (R183). It is queued as the last part of the trigger, and
so before NEIGHBOUR_ABSENT, SETTLE_END, ATTITUDE_HELD and ATTITUDE_LOST of the same trigger: at the trigger that brings
a record's age to 128 its presence map still shows the station, at the 64th trigger of SETTLING it carries the SETTLING
bit, and at the trigger of age 65 or 1,024 the attitude state from before. R20, R32, R102, R169, R183 and R185 allow
either order; this one is a DESIGN CHOICE (log 7). -/
def triggerHeadstate (s : State) : State := if s.du.frameIndex.toNat % 32 = 31 then headstateDue s else s

/-- A frame trigger (R4, R5, R8, R12, R71, R101, R127, R183). The order of its parts beyond what the rules fix is a
DESIGN CHOICE (log 7). -/
def frameTrigger (cfg : Startup) (s : State) : State :=
  triggerHeadstate (triggerExposure cfg (triggerBlocks cfg (triggerAgeing cfg s)))

/-! ### Due events, one by one -/

/-- The down-counter has reached zero in OPERATING and its trigger has not been taken (R4). -/
def triggerIsDue (s : State) : Bool := s.du.downCounter == 0

/-- The due frame trigger is taken. -/
def takeTrigger (cfg : Startup) (s : State) : State := if triggerIsDue s then frameTrigger cfg s else s

/-- The lit frame of the latest trigger was skipped there: the cycle in progress exposes another one (R12). -/
def skippedLit (s : State) : Bool := !isDark s.du.frameIndex && s.ec.cycle.any (·.frame != s.du.frameIndex)

/-- The skipped frame of the latest trigger counted in the lanes that the open block has bound since it had `n`. -/
def skipNewLanes (n : Nat) (s : State) : State :=
  s.setSs { s.ss with openBlock := s.ss.openBlock.map fun b =>
    { b with lanes := b.lanes.take n ++ (b.lanes.drop n).map fun l => { l with skipped := l.skipped + 1 } } }

/-- The lanes that the open block has bound, none with no block open. -/
def StripStore.boundLanes (ss : StripStore) : Nat := ((ss.openBlock.map (·.lanes)).getD []).length

/-- The entry whose yield age has reached 80 is reclaimed (R115, R116). A lane bound here has the trigger's frame as its
first frame (R129), and counts it when it was skipped and lit (R135): DEDUCED (log 9). -/
def reclaim (cfg : Startup) (i : Nat) (e : Entry) (s : State) : State :=
  let s1 := s.setEntry i (some { e with state := .owned, yieldAge := 0, yieldTarget := none, reclaimMark := true })
  let s2 := match e.yieldTarget with
    | some t => s1.setNeighbour t { s1.neighbour t with notTaking := 256, heldBack := true }
    | none => s1
  let s3 := offerLane i s2.du.frameIndex s2
  latchZone cfg (if skippedLit s then skipNewLanes s.ss.boundLanes s3 else s3)

/-- The reclaim of the entry at an index, if it is due. -/
def takeReclaim (cfg : Startup) (s : State) (i : Nat) : State :=
  match s.tt.entry i with
  | some e => if e.state = .yielded ∧ 80 ≤ e.yieldAge then reclaim cfg i e s else s
  | none => s

/-- The PRESENT record of a station whose age has reached 128 becomes ABSENT, if it is due (R101). -/
def takeAbsent (cfg : Startup) (s : State) (station : Nat) : State :=
  let r := s.neighbour station
  if r.state = .present ∧ 128 ≤ r.age then latchZone cfg (s.setNeighbour station { r with state := .absent }) else s

/-- A station whose not-taking count has reached 0 may bound the zone again, if it is due (R101, R117). -/
def takeExpire (cfg : Startup) (s : State) (station : Nat) : State :=
  let r := s.neighbour station
  if r.heldBack ∧ r.notTaking = 0 then latchZone cfg (s.setNeighbour station { r with heldBack := false }) else s

/-- The settle count has reached 0: the state becomes STEADY, if it is due (R29). -/
def takeSettleEnd (s : State) : State :=
  if s.ec.state = .settling ∧ s.ec.settleCount = 0 then s.setEc { s.ec with state := .steady } else s

/-- The attitude age has reached 65: the state becomes HELD, if it is due (R159). -/
def takeHeld (s : State) : State :=
  if s.su.state = .fresh ∧ 65 ≤ s.su.age then s.setSu { s.su with state := .held } else s

/-- The attitude age has reached 1,024: the state becomes LOST, if it is due (R159). -/
def takeLost (s : State) : State :=
  if s.su.state ≠ .lost ∧ 1024 ≤ s.su.age then s.setSu { s.su with state := .lost } else s

/-- The stations of the Neighbour List. -/
def stations : List Nat := [1, 2, 3, 4, 5, 6, 7, 8]

/-- All that the ageing at a frame trigger has left due is taken. -/
def takeAged (cfg : Startup) (s : State) : State :=
  takeLost (takeHeld (takeSettleEnd
    (stations.foldl (takeExpire cfg)
      (stations.foldl (takeAbsent cfg)
        ((List.range Config.entries).foldl (takeReclaim cfg) s)))))

/-- In OPERATING, all that the last tick and the last frame trigger have left due is taken (log 3). -/
def catchUp (s : State) : State :=
  match s.src.part with
  | .operating cfg => takeAged cfg (takeTrigger cfg s)
  | _ => s

/-- In OPERATING the frame trigger that is due is taken, before an event that belongs to a trigger. -/
def catchTrigger (s : State) : State :=
  match s.src.part with
  | .operating cfg => takeTrigger cfg s
  | _ => s

/-- An action of a part that is OPERATING, on its accepted start-up block; none in any other part state. -/
def inOperating (act : Startup → State → State) (s : State) : State :=
  match s.src.part with
  | .operating cfg => act cfg s
  | _ => s

/-! ### Their commands, and the other commands of the slot cycle -/

/-- FRAME_TRIGGER (R4). -/
def execFrameTrigger (s : State) : Host.Outcome State Fault Refusal := .next (catchTrigger s)

/-- YIELD_RECLAIM (R116). -/
def execYieldReclaim (entry : Nat) (s : State) : Host.Outcome State Fault Refusal :=
  .next (inOperating (fun cfg s => takeReclaim cfg s entry) (catchTrigger s))

/-- NEIGHBOUR_ABSENT (R101). -/
def execNeighbourAbsent (station : Nat) (s : State) : Host.Outcome State Fault Refusal :=
  .next (inOperating (fun cfg s => takeAbsent cfg s station) (catchTrigger s))

/-- NOT_TAKING_EXPIRE (R117). -/
def execNotTakingExpire (station : Nat) (s : State) : Host.Outcome State Fault Refusal :=
  .next (inOperating (fun cfg s => takeExpire cfg s station) (catchTrigger s))

/-- SETTLE_END (R29). -/
def execSettleEnd (s : State) : Host.Outcome State Fault Refusal :=
  .next (inOperating (fun _ s => takeSettleEnd s) (catchTrigger s))

/-- ATTITUDE_HELD (R159). -/
def execAttitudeHeld (s : State) : Host.Outcome State Fault Refusal :=
  .next (inOperating (fun _ s => takeHeld s) (catchTrigger s))

/-- ATTITUDE_LOST (R159). -/
def execAttitudeLost (s : State) : Host.Outcome State Fault Refusal :=
  .next (inOperating (fun _ s => takeLost s) (catchTrigger s))

end Sys2Proof.Machine
end

