-- ==== Sys2Proof/Machine/Frames.lean ====
section
/-! DEFINITION. Ticks, slot cycles, the rate window and pole marks (Chapter 1). -/

namespace Sys2Proof.Machine

/-- The direction that a level of DIR means (R1). -/
def directionOf : Pin → Direction
  | .high => .forward
  | .low => .reverse

/-- The tick counted by its sampled direction, and the held direction updated (R1, R2). -/
def countTick (dir : Direction) (d : DistanceUnit) : DistanceUnit :=
  { d with distance := if dir = .forward then d.distance + 1 else d.distance - 1, direction := dir }

/-- The rate of an entry negated (R73). -/
def Entry.reversed (e : Entry) : Entry := { e with v := -e.v }

/-- What the other blocks do at a reversal (R3): the rates are negated (R73) and the open block closes (R130),
with the distance after the tick: DEDUCED (log 25). -/
def reversal (cfg : Startup) (s : State) : State := closeNow cfg (s.mapEntries Entry.reversed)

/-- A tick in OPERATING: counted, then the reversal if it is one, then the down-counter (R1 to R4). -/
def tickOperating (dir : Direction) (cfg : Startup) (s : State) : State :=
  let s1 := s.setDu (countTick dir s.du)
  let s2 := if dir = s.du.direction then s1 else reversal cfg s1
  s2.setDu { s2.du with downCounter := s2.du.downCounter - 1 }

/-- TICK (R1). Ticks are counted in every part state; while the part is held in reset the count stays 0 (R193). -/
def execTick (dir : Pin) (s : State) : Host.Outcome State Fault Refusal :=
  let s := catchUp s
  match s.src.part with
  | .held => .next s
  | .operating cfg => .next (tickOperating (directionOf dir) cfg s)
  | _ => .next (s.setDu (countTick (directionOf dir) s.du))

/-- SLOT_CYCLE_END (R8): the cycle whose exposure is over ends. No cycle starts inside it: DEDUCED (log 23). -/
def execSlotCycleEnd (s : State) : Host.Outcome State Fault Refusal :=
  .next (inOperating (fun _ s =>
    match s.ec.cycle with
    | some c => if c.phase = .exposed then s.setEc { s.ec with cycle := none } else s
    | none => s) (catchUp s))

/-- An exposed frame joins the expected-row list; when the list is full the oldest is pushed out, becomes absent, and
SENSOR_FAULT is raised (R36). -/
def expectRow (cfg : Startup) (r : ExpectedRow) (s : State) : State :=
  if s.fe.expected.length < Config.expectedRows then
    s.setFe { s.fe with expected := s.fe.expected ++ [r] }
  else
    match s.fe.expected with
    | [] => s.setFe { s.fe with expected := [r] }
    | oldest :: rest =>
      treatAbsent cfg ((s.setFe { s.fe with expected := rest ++ [r] }).raise .sensorFault) oldest.frame

/-- The exposure of a cycle begins: EXPOSE rises, with LASER on a lit frame (R9, R10), and the frame with its class is
handed to the Front End (R11, R36, R55, R66). -/
def beginExposure (cfg : Startup) (c : SlotCycle) (s : State) : State :=
  let s1 := s.setEc { s.ec with
    cycle := some { c with phase := .exposing }
    expose := .high
    laser := if isDark c.frame then .low else .high }
  expectRow cfg ⟨c.frame, frameClass c.frame s.keep⟩ s1

/-- EXPOSE_RISE (R11). -/
def execExposeRise (s : State) : Host.Outcome State Fault Refusal :=
  .next (inOperating (fun cfg s =>
    match s.ec.cycle with
    | some c => if c.phase = .waiting then beginExposure cfg c s else s
    | none => s) (catchUp s))

/-- EXPOSE_FALL (R9, R10): EXPOSE and LASER fall. -/
def execExposeFall (s : State) : Host.Outcome State Fault Refusal :=
  .next (inOperating (fun _ s =>
    match s.ec.cycle with
    | some c =>
      if c.phase = .exposing then
        s.setEc { s.ec with cycle := some { c with phase := .exposed }, expose := .low, laser := .low }
      else s
    | none => s) (catchUp s))

/-- RATE_WINDOW_END (R6). The first window begins when reset ends. -/
def execRateWindowEnd (s : State) : Host.Outcome State Fault Refusal :=
  let s := catchUp s
  match s.src.part with
  | .held => .next s
  | _ => .next (s.setDu { s.du with rateLast := s.du.rateRunning, rateRunning := 0 })

/-- The pole mark that an edge captures, overwriting one that is pending (R14, R15). -/
def capture (d : DistanceUnit) : PoleMark :=
  { distance := d.distance, frame := d.frameIndex, overwritten := d.mark.isSome }

/-- POLE (R14, R15, R17). -/
def execPole (s : State) : Host.Outcome State Fault Refusal :=
  .next (inOperating (fun cfg s =>
    let s1 := s.setDu { s.du with mark := some (capture s.du) }
    if s.src.runState = .run then closeNow cfg s1 else s1) (catchUp s))

end Sys2Proof.Machine
end

