-- ==== Sys2Proof/Machine/Link.lean ====
section
/-! DEFINITION. The line: contention, transmission and reception (Chapter 10), and the dispatch of what was received. -/

namespace Sys2Proof.Machine

/-- An event on the line, which the LC sees in every part state but not while held in reset (R186, R193). -/
def onLine (act : LinkController → LinkController) (s : State) : State :=
  match s.src.part with
  | .held => s
  | _ => s.setLc (act s.lc)

/-- The LC drives its start bit or its identifier (R174). -/
def LinkController.drives (l : LinkController) : Bool := l.tx == .contending true

/-- The LC drives a telegram, identifier or later (R174, R175). -/
def LinkController.transmits (l : LinkController) : Bool := l.drives || l.tx == .sending

/-! ### Transmission -/

/-- The LC starts the telegram at the head of its queue, and reads its own start bit (R174, R176).
The idle bits before it are the sender's timing: DESIGN CHOICE (log 13). -/
def startTransmission (station : Nat) (l : LinkController) : LinkController :=
  match l.txQueue with
  | t :: _ =>
    if l.tx = .contending false ∧ l.rx = .ready then
      { l with tx := .contending true, rx := .receiving, lineOut := t.levels station }
    else l
  | [] => l

/-- TRANSMIT_START (R174). -/
def execTransmitStart (s : State) : Host.Outcome State Fault Refusal :=
  let s := catchUp s
  .next (onLine (startTransmission s.src.station) s)

/-- ARBITRATION_LOST (R174): the LC stops driving, stays CONTENDING, and receives the winning telegram. -/
def execArbitrationLost (s : State) : Host.Outcome State Fault Refusal :=
  .next (onLine (fun l => if l.drives then { l with tx := .contending false, lineOut := [] } else l) (catchUp s))

/-- ARBITRATION_WON (R174). -/
def execArbitrationWon (s : State) : Host.Outcome State Fault Refusal :=
  .next (onLine (fun l => if l.drives then { l with tx := .sending } else l) (catchUp s))

/-- The telegram concerned leaves the head of the queue; the LC is IDLE, and takes the next head at once if there is
one (R174, R175). -/
def LinkController.leave (l : LinkController) (rx : RxState) : LinkController :=
  { l with txQueue := l.txQueue.tail, tx := .idle, lineOut := [], rx := rx }.takeHead

/-- A transmission is lost to a transmit error (R175): the telegram is removed, a HEADSTATE is returned (R182),
TX_ERROR is raised, and the receive side waits for idle (R176). A HEADSTATE that waited is then queued (R181). The
order of these is DEDUCED (log 24). -/
def loseTransmission (s : State) : State :=
  let s1 := returnAt 0 s
  queueWaitingHeadstate ((s1.setLc (s1.lc.leave .waitIdle)).raise .txError)

/-- TRANSMIT_ERROR (R175). -/
def execTransmitError (s : State) : Host.Outcome State Fault Refusal :=
  let s := catchUp s
  .next (if s.lc.transmits then loseTransmission s else s)

/-- A transmission is complete (R175): the telegram leaves the queue. It is the LC's own, so it is not stored (R177).
A HEADSTATE that waited is then queued (R181). -/
def completeTransmission (s : State) : State := queueWaitingHeadstate (s.setLc (s.lc.leave .ready))

/-- TRANSMIT_COMPLETE (R175). -/
def execTransmitComplete (s : State) : Host.Outcome State Fault Refusal :=
  let s := catchUp s
  .next (if s.lc.tx = .sending then completeTransmission s else s)

/-! ### Reception -/

/-- LINE_IDLE (R176): ten recessive bits have been read. -/
def execLineIdle (s : State) : Host.Outcome State Fault Refusal :=
  .next (onLine (fun l => if l.rx = .waitIdle then { l with rx := .ready } else l) (catchUp s))

/-- START_BIT (R176): another station's start bit. A CONTENDING LC that has not driven its own stays CONTENDING. -/
def execStartBit (s : State) : Host.Outcome State Fault Refusal :=
  .next (onLine (fun l => if l.rx = .ready then { l with rx := .receiving } else l) (catchUp s))

/-- A good telegram takes a FREE buffer, or is dropped with RX_OVERRUN (R177). -/
def storeTelegram (t : RxTelegram) (l : LinkController) : LinkController :=
  if l.rxBuffers.length < Config.receiveBuffers then { l with rxBuffers := l.rxBuffers ++ [t] }
  else l.raise .rxOverrun

/-- A telegram of another station ends on the line (R176): a bad one raises LINK_ERROR and the receive side waits for
idle; a good one is stored and the receive side is READY. -/
def endReception (levels : List Level) (l : LinkController) : LinkController :=
  match receive levels with
  | none => { l with rx := .waitIdle }.raise .linkError
  | some t => storeTelegram t { l with rx := .ready }

/-- TELEGRAM_RECEIVED (R176). What the LC itself transmits ends with TRANSMIT_COMPLETE or TRANSMIT_ERROR instead. -/
def execTelegramReceived (levels : List Level) (s : State) : Host.Outcome State Fault Refusal :=
  .next (onLine (fun l => if l.rx = .receiving ∧ l.transmits = false then endReception levels l else l) (catchUp s))

/-! ### Dispatch -/

/-- What the LC's checks decide for a buffered telegram (R178). -/
inductive Verdict where
  /-- discarded, with the flag that is raised, if any -/
  | discard (flag : Option StickyFlag)
  /-- handed to the block that takes its kind -/
  | deliver (kind : Kind)
  deriving DecidableEq, Repr

/-- The telegrams that heads send (R173). -/
def Kind.fromHead : Kind → Bool
  | .run | .attitude => false
  | .handover | .sighting | .headstate => true

/-- The checks of dispatch, in turn (R178). -/
def verdict (operating : Bool) (own : Nat) (t : RxTelegram) : Verdict :=
  match t.kind with
  | none => .discard none
  | some k =>
    if !lengthAccepted k t.body then .discard (some .linkError)
    else if k.fromHead && t.station == own then .discard (some .duplicateStation)
    else if k.fromHead && (t.station == 0 || decide (8 < t.station)) then .discard none
    else if !k.fromHead && t.station != 0 then .discard none
    else if !operating then .discard none
    else .deliver k

/-- The part is OPERATING. -/
def PartState.isOperating : PartState → Bool
  | .operating _ => true
  | _ => false

/-- The verdict on the oldest buffered telegram, with the telegram; none when both buffers are FREE (R178). It goes by
the part state at dispatch, so a telegram that was received in LOADING and waits is taken in OPERATING: DEDUCED
(log 31). -/
def dispatched (s : State) : Option (RxTelegram × Verdict) :=
  s.lc.rxBuffers.head?.map fun t => (t, verdict s.src.part.isOperating s.src.station t)

/-- The buffer of the oldest telegram becomes FREE (R177). -/
def freeBuffer (s : State) : State := s.setLc { s.lc with rxBuffers := s.lc.rxBuffers.tail }

/-- TELEGRAM_DISCARD (R178): the oldest buffered telegram is discarded when a check decides so. -/
def execTelegramDiscard (s : State) : Host.Outcome State Fault Refusal :=
  let s := catchUp s
  match dispatched s with
  | some (_, .discard (some f)) => .next ((freeBuffer s).raise f)
  | some (_, .discard none) => .next (freeBuffer s)
  | _ => .next s

/-- A block takes the oldest buffered telegram when its checks let it through as kind `k`; the buffer becomes FREE
(R177, R178). -/
def takeTelegram (k : Kind) (act : Startup → RxTelegram → State → State) (s : State) : State :=
  match s.src.part, dispatched s with
  | .operating cfg, some (t, .deliver k') => if k' = k then act cfg t (freeBuffer s) else s
  | _, _ => s

end Sys2Proof.Machine
end

