-- ==== Sys2Proof/Machine/Search.lean ====
section
/-! DEFINITION. What the Front End does with the row in process (Chapter 3): stray count, cleaning, and the search
for candidates. -/

namespace Sys2Proof.Machine

/-! ### Windows and cleaning -/

/-- Cell i matches a used window (R46). -/
def windowMatches (i : Nat) (w : Window) : Bool := w.enabled && Nat.land i w.mask == Nat.land w.base w.mask

/-- Cell i matches some used window (R46). -/
def isExcluded (windows : List Window) (i : Nat) : Bool := windows.any (windowMatches i)

/-- The stray count of a dark row (R22). -/
def strayCount (cfg : Startup) (cells : List RowCell) : Nat :=
  cells.zipIdx.countP fun p => !isExcluded cfg.windows p.2 && decide (cfg.tStray ≤ p.1.intensity.toNat)

/-- The processed intensity of cell i: dark subtraction (R45), exclusion windows (R46), height band (R47). -/
def cleanCell (cfg : Startup) (background : Sample) (i : Nat) (c : RowCell) : Nat :=
  let h := c.height.toNat
  if isExcluded cfg.windows i then 0
  else if h = 0 ∨ h < cfg.bandLow ∨ cfg.bandHigh < h then 0
  else c.intensity.toNat - background.toNat

/-- The processed row (R44, R48). -/
def cleanRow (cfg : Startup) (background : List Sample) (cells : List RowCell) : List Nat :=
  cells.zipIdx.map fun p => cleanCell cfg (background.getD p.2 0) p.2 p.1

/-! ### Runs -/

/-- A maximal run of cells at or above the threshold (R49). -/
structure BrightRun where
  first : Nat
  last : Nat
  deriving DecidableEq, Repr

def BrightRun.length (r : BrightRun) : Nat := r.last - r.first + 1

/-- The runs among the intensities from cell `i` on; `cur` is the first cell of the run that reaches cell i - 1. -/
def runsFrom (t : Nat) : Nat → Option Nat → List Nat → List BrightRun
  | _, none, [] => []
  | i, some a, [] => [⟨a, i - 1⟩]
  | i, cur, x :: xs =>
    if t ≤ x then runsFrom t (i + 1) (some (cur.getD i)) xs
    else
      match cur with
      | none => runsFrom t (i + 1) none xs
      | some a => ⟨a, i - 1⟩ :: runsFrom t (i + 1) none xs

/-- The runs of a processed row, from cell 0 on (R49). -/
def brightRuns (t : Nat) (processed : List Nat) : List BrightRun := runsFrom t 0 none processed

/-- A candidate run: 2 to 160 cells (R49). -/
def BrightRun.isCandidate (r : BrightRun) : Bool := 2 ≤ r.length && r.length ≤ 160

/-- A wide return: 161 cells or more (R49). -/
def BrightRun.isWide (r : BrightRun) : Bool := 161 ≤ r.length

/-! ### Edges, centre and height -/

/-- The left edge of a run in c16 (R50, R52). -/
def leftEdge (t : Nat) (p : List Nat) (r : BrightRun) : Nat :=
  if r.first = 0 then 0
  else
    let i0 := p.getD (r.first - 1) 0
    let i1 := p.getD r.first 0
    16 * (r.first - 1) + 16 * (t - i0) / (i1 - i0)

/-- The right edge of a run in c16 (R51, R52). -/
def rightEdge (t : Nat) (p : List Nat) (r : BrightRun) : Nat :=
  if r.last = Config.cells - 1 then 32767
  else
    let ib := p.getD r.last 0
    let inn := p.getD (r.last + 1) 0
    16 * r.last + 16 * (ib - t) / (ib - inn)

/-- The peak cell of `n` cells from cell `a`: the highest intensity, the lowest cell among equals (R53). -/
def peakCell (p : List Nat) (a : Nat) : Nat → Nat
  | 0 => a
  | n + 1 => let b := peakCell p a n
             if p.getD b 0 < p.getD (a + n) 0 then a + n else b

/-- On which side a run is clipped (R52). -/
def clipOf (r : BrightRun) : Clipped :=
  if r.first = 0 then .lowSide else if r.last = Config.cells - 1 then .highSide else .no

/-- The candidate that a candidate run gives (R50 to R53). -/
def candidateOf (t : Nat) (p : List Nat) (cells : List RowCell) (r : BrightRun) : Candidate :=
  let left := leftEdge t p r
  let right := rightEdge t p r
  let peak := peakCell p r.first r.length
  { left := left, right := right, centre := (left + right) / 2, peak := p.getD peak 0
    height := ((cells[peak]?).map (·.height.toNat)).getD 0, clipped := clipOf r }

/-! ### Which runs are found -/

/-- Cell i lies within the gate of at least one prediction (R56). -/
def isSearched (mount : Int) (gates : List Gate) (i : Nat) : Bool :=
  gates.any fun g => ((mount + ((i : Int) - 1024) * 250 - g.x).natAbs : Int) ≤ g.width

/-- A run is found: any on a FULL row, one with a searched cell on a GATE_ONLY row (R55, R56). -/
def isFound (mount : Int) (row : RowInProcess) (r : BrightRun) : Bool :=
  row.cls == .full
    || (List.range r.length).any fun k => isSearched mount row.gates (r.first + k)

/-- One of two candidate runs is kept before the other: the higher peak, then the lower cell (R54). -/
def keptBefore (a b : BrightRun × Candidate) : Bool :=
  b.2.peak < a.2.peak || a.2.peak == b.2.peak && a.1.first < b.1.first

/-- The 8 candidates that are kept, in the order of their first cells (R54). -/
def keepBest (cs : List (BrightRun × Candidate)) : List (BrightRun × Candidate) :=
  cs.filter fun c => cs.countP (fun d => keptBefore d c) < Config.candidates

/-- The search of a lit row (R49 to R56): the processed row, the candidate list, and whether CANDIDATES_TRUNCATED is
raised. -/
def searchRow (cfg : Startup) (background : List Sample) (row : RowInProcess) : List Nat × List Candidate × Bool :=
  let p := cleanRow cfg background row.cells
  let found := (brightRuns cfg.tDet p).filter (isFound cfg.mountOffset row)
  let cands := (found.filter BrightRun.isCandidate).map fun r => (r, candidateOf cfg.tDet p row.cells r)
  let kept := keepBest cands
  (p, kept.map (·.2), found.any BrightRun.isWide || kept.length < cands.length)

end Sys2Proof.Machine
end

