-- ==== Sys2Proof/Machine/Rows.lean ====
section
/-! DEFINITION. Rows on the sensor port and their processing (Chapters 2, 3 and 5). -/

namespace Sys2Proof.Machine

/-- The prediction and gate of each non-empty entry, as a GATE_ONLY search takes them (R56). -/
def gatesOf (t : TrackTable) : List Gate :=
  t.entries.filterMap fun p => p.map fun e => ⟨e.x, e.gate, e.seq⟩

/-- When no row is in process, the Front End takes the row at the head of the queue, and on a GATE_ONLY row the gates
as the Track Table holds them then (R42, R56). -/
def takeNextRow (s : State) : State :=
  match s.fe.inProcess, s.fe.queue with
  | none, r :: rest =>
    s.setFe { s.fe with
      queue := rest
      inProcess := some
        { frame := r.frame, cls := r.cls, cells := r.cells
          gates := if r.cls = .gateOnly then gatesOf s.tt else []
          heights := [], processed := [], candidates := [], associated := false } }
  | _, _ => s

/-- SRF_RISE (R58): the Front End begins counting the cells of a row. -/
def execSrfRise (s : State) : Host.Outcome State Fault Refusal :=
  let s := catchUp s
  match s.src.part with
  | .held => .next s
  | _ => .next (s.setFe { s.fe with receiving := true })

/-- A row matches an entry of the expected-row list (R37). -/
def rowMatches (row : SensorRow) (e : ExpectedRow) : Bool :=
  BitVec.ofNat 8 e.frame.toNat == row.tag && kindAgrees row.kind e.cls

/-- The newest matching entry of the expected-row list, with the entries older and newer than it (R37). -/
def splitAtMatch (row : SensorRow) : List ExpectedRow → Option (List ExpectedRow × ExpectedRow × List ExpectedRow)
  | [] => none
  | e :: es =>
    match splitAtMatch row es with
    | some (older, m, newer) => some (e :: older, m, newer)
    | none => if rowMatches row e then some ([], e, es) else none

/-- The expected frames older than a matched one leave the list one after the other, the oldest first, and each becomes
absent while those after it, then `rest`, still stand in the list (R37, R132). -/
def olderAbsent (cfg : Startup) (rest : List ExpectedRow) : List ExpectedRow → State → State
  | [], s => s
  | e :: older, s =>
    olderAbsent cfg rest older (treatAbsent cfg (s.setFe { s.fe with expected := older ++ rest }) e.frame)

/-- A row matched to frame `m` leaves the list after the older frames, of which none is held any more, and joins the
frame queue, or is dropped with QUEUE_DROP at a full queue, its frame absent (R37, R41). -/
def joinQueue (cfg : Startup) (m : ExpectedRow) (cells : List RowCell) (older newer : List ExpectedRow) (s : State) :
    State :=
  let s1 := olderAbsent cfg (m :: newer) older s
  let s2 := s1.setFe { s1.fe with expected := newer }
  if s2.fe.queue.length < Config.frameQueue then
    s2.setFe { s2.fe with queue := s2.fe.queue ++ [⟨m.frame, m.cls, cells⟩] }
  else treatAbsent cfg (s2.raise .queueDrop) m.frame

/-- A row of 2048 cells is matched and queued, or discarded with SENSOR_FAULT (R37, R38, R41), and an idle Front End
takes the row at once (R42). -/
def matchRow (cfg : Startup) (row : SensorRow) (s : State) : State :=
  match splitAtMatch row s.fe.expected with
  | none => s.raise .sensorFault
  | some (older, m, newer) => takeNextRow (joinQueue cfg m row.cells older newer s)

/-- ROW_ARRIVAL (R35): SRF falls at the end of a row whose rise was seen (R58, log 20). -/
def execRowArrival (nibbles : List Nibble) (s : State) : Host.Outcome State Fault Refusal :=
  let s := catchUp s
  if s.fe.receiving then
    .next (inOperating (fun cfg s =>
      match sensorRowOf nibbles with
      | none => s.raise .sensorFault
      | some row => matchRow cfg row s) (s.setFe { s.fe with receiving := false }))
  else .next s

/-! ### Dark rows -/

/-- The stations of the neighbours that collide with this head (R25). -/
def colliding (cfg : Startup) (s : State) : List Nat :=
  stations.filter fun t =>
    let r := s.neighbour t
    r.inSlotRange cfg.mountOffset && r.slot == some s.ec.currentSlot

/-- The PRESENT neighbours in range that announced a slot (R27). -/
def slotUsers (cfg : Startup) (s : State) (slot : Nat) : Nat :=
  stations.countP fun t =>
    let r := s.neighbour t
    r.inSlotRange cfg.mountOffset && r.slot == some slot

/-- The first of some slots with the smallest count (R27). -/
def leastUsed (count : Nat → Nat) : List Nat → Option Nat
  | [] => none
  | a :: as =>
    match leastUsed count as with
    | none => some a
    | some b => if count b < count a then some b else some a

/-- The slot a hop chooses (R27). -/
def chooseSlot (cfg : Startup) (s : State) : Nat :=
  (leastUsed (slotUsers cfg s) ([0, 1, 2, 3].filter (· != s.ec.currentSlot))).getD s.ec.currentSlot

/-- A hop (R26, R27, R29, R31). -/
def hop (cfg : Startup) (s : State) : State :=
  (s.setEc { s.ec with pendingSlot := some (chooseSlot cfg s), state := .settling, settleCount := 64 }).raise .hopped

/-- The answer as ambient light: AMBIENT in the sticky flags and on the open block (R30). -/
def answerAmbient (s : State) : State :=
  (s.setSs { s.ss with openBlock := s.ss.openBlock.map fun b => { b with ambient := true } }).raise .ambient

/-- An interference event, classified (R25) and answered by a hop (R26) or as ambient light (R30). -/
def interference (cfg : Startup) (s : State) : State :=
  let cs := colliding cfg s
  if s.ec.state = .steady ∧ cs ≠ [] ∧ cs.all (· < s.src.station) then hop cfg s else answerAmbient s

/-- The Exposure Controller takes a stray count (R23, R24). -/
def takeStrayCount (cfg : Startup) (count : Nat) (s : State) : State :=
  if count < 16 then s.setEc { s.ec with strayStreak := 0 }
  else if s.ec.strayStreak = 0 then s.setEc { s.ec with strayStreak := 1 }
  else interference cfg (s.setEc { s.ec with strayStreak := 0 })

/-- The end of processing of a dark row: stray count, background, release, the natural end of its block, settling, and
the next row (R22, R43, R131, R132, R42). -/
def finishDarkRow (cfg : Startup) (row : RowInProcess) (s : State) : State :=
  let s1 := takeStrayCount cfg (strayCount cfg row.cells) s
  let s2 := s1.setFe { s1.fe with background := row.cells.map (·.intensity), inProcess := none }
  takeNextRow (settleReady cfg (naturalEnd cfg row.frame s2))

/-- DARK_ROW_DONE (R43). -/
def execDarkRowDone (s : State) : Host.Outcome State Fault Refusal :=
  .next (inOperating (fun cfg s =>
    match s.fe.inProcess with
    | some row => if row.cls = .dark then finishDarkRow cfg row s else s
    | none => s) (catchUp s))

/-! ### Lit rows -/

/-- The row as the search leaves it: the processed row, the height codes and the candidate list are held, and the raw
intensities are not kept (R48, R57). -/
def RowInProcess.searched (row : RowInProcess) (processed : List Nat) (candidates : List Candidate) : RowInProcess :=
  { row with
    cells := [], heights := row.cells.map (·.height), processed := processed, candidates := candidates
    associated := true }

/-- The search of a lit row finishes and the Track Table treats the row (R57, R76). -/
def associateRow (cfg : Startup) (row : RowInProcess) (s : State) : State :=
  let found := searchRow cfg s.fe.background row
  let row' := row.searched found.1 found.2.1
  let s1 := (s.setFe { s.fe with inProcess := some row' }).raiseIf found.2.2 .candidatesTruncated
  treatRow cfg row' s1

/-- ROW_ASSOCIATION (R76). The row is cleaned and searched here: DESIGN CHOICE (log 22). -/
def execRowAssociation (s : State) : Host.Outcome State Fault Refusal :=
  .next (inOperating (fun cfg s =>
    match s.fe.inProcess with
    | some row => if row.cls ≠ .dark ∧ row.associated = false then associateRow cfg row s else s
    | none => s) (catchUp s))

/-- LIT_ROW_END (R57): the row is released, blocks settle (R132), and the next row is taken (R42). -/
def execLitRowEnd (s : State) : Host.Outcome State Fault Refusal :=
  .next (inOperating (fun cfg s =>
    match s.fe.inProcess with
    | some row =>
      if row.cls ≠ .dark ∧ row.associated = true then
        takeNextRow (settleReady cfg (s.setFe { s.fe with inProcess := none }))
      else s
    | none => s) (catchUp s))

end Sys2Proof.Machine
end

