-- ==== Sys2Proof/Machine/StartUp.lean ====
section
/-! DEFINITION. Reset, LOADING and the HEADSTATE timer of CONFIG_BAD (Chapter 11). -/

namespace Sys2Proof.Machine

/-- RESET (R193): every block returns to its reset state and all work is abandoned; the commands that wait are not the
part's and stay. -/
def execReset (s : State) : Host.Outcome State Fault Refusal := .next (State.reset.setPending s.pending)

/-- RESET_END (R193, R194): the part enters LOADING and reads the straps once. -/
def execResetEnd (straps : BitVec 3) (s : State) : Host.Outcome State Fault Refusal :=
  let s := catchUp s
  match s.src.part with
  | .held => .next (s.setSrc { s.src with part := .loading .waiting, station := straps.toNat + 1 })
  | _ => .next s

/-- The level of a bit on CFG_DO. -/
def pinOf (bit : Bool) : Pin := if bit then .high else .low

/-- A byte on CFG_DO, most significant bit first (R195). -/
def pinsOf (b : Byte) : List Pin := [7, 6, 5, 4, 3, 2, 1, 0].map fun k => pinOf (b.getLsbD k)

/-- What CFG_DO sends to start the SPI read: instruction 3 and the two-byte address 0, bit by bit (R195). -/
def spiReadCommand : List Pin := [0x03, 0x00, 0x00].flatMap pinsOf

/-- CONFIG_READ_START (R195): CFG_CS goes low and the read instruction is sent. -/
def execConfigReadStart (s : State) : Host.Outcome State Fault Refusal :=
  let s := catchUp s
  match s.src.part with
  | .loading .waiting => .next (s.setSrc { s.src with part := .loading (.reading spiReadCommand), cfgCs := .low })
  | _ => .next s

/-- Byte number `k` of those clocked in on CFG_DI, most significant bit first; where the memory drives nothing, CFG_DI
is pulled up (R195, log 16). -/
def clockedByte (levels : List Pin) (k : Nat) : Byte :=
  [0, 1, 2, 3, 4, 5, 6, 7].foldl
    (fun b j => (b <<< 1) ||| (if levels.getD (8 * k + j) .high = .high then 1 else 0)) 0

/-- The 128 bytes that the transfer clocks in (R195). -/
def clockedIn (levels : List Pin) : List Byte := (List.range Config.startupBytes).map (clockedByte levels)

/-- CONFIG_READ_DONE (R195, R196): CFG_CS goes high and checking begins. -/
def execConfigReadDone (levels : List Pin) (s : State) : Host.Outcome State Fault Refusal :=
  let s := catchUp s
  match s.src.part with
  | .loading (.reading _) =>
    .next (s.setSrc { s.src with part := .loading (.checking (clockedIn levels)), cfgCs := .high })
  | _ => .next s

/-- The part accepts a start-up block and becomes OPERATING (R201): each block takes its figures. The run
figures are those of reset again (log 27). -/
def acceptBlock (cfg : Startup) (s : State) : State :=
  let zone : Zone :=
    { left := cfg.mountOffset - 256000, right := cfg.mountOffset + 256000, leftSetBy := none, rightSetBy := none }
  (((s.setSrc { s.src with
      part := .operating cfg, runState := .idle, runNumber := 0, pendingClass := 0, currentClass := 0 }).setDu
    { s.du with downCounter := cfg.pitch }).setEc { s.ec with currentSlot := cfg.slot }).setTt
      { s.tt with zone := zone }

/-- The block is good: neither blank nor of a bad CRC (R196). -/
def blockGood (block : List Byte) : Bool := !isBlank block && crcGood block

/-- LOADING ends with the block checked (R196 to R201); the first HEADSTATE falls due (R183). -/
def endLoading (block : List Byte) (s : State) : State :=
  if blockGood block then
    headstateDue
      (((acceptBlock (acceptedOf block) s).raiseIf (wasClamped block) .configClamped).raiseIf
        (wasTrimmed block) .windowsTrimmed)
  else headstateDue (s.setSrc { s.src with part := .configBad block })

/-- LOADING_END (R201). -/
def execLoadingEnd (s : State) : Host.Outcome State Fault Refusal :=
  let s := catchUp s
  match s.src.part with
  | .loading (.checking block) => .next (endLoading block s)
  | _ => .next s

/-- HEADSTATE_TIMER (R183, R197): in CONFIG_BAD a HEADSTATE falls due. -/
def execHeadstateTimer (s : State) : Host.Outcome State Fault Refusal :=
  let s := catchUp s
  match s.src.part with
  | .configBad _ => .next (headstateDue s)
  | _ => .next s

end Sys2Proof.Machine
end

