-- ==== Sys2Proof/Machine/Telegrams.lean ====
section
/-! DEFINITION. What the blocks do with the telegrams dispatched to them (Chapters 6, 9 and 11). -/

namespace Sys2Proof.Machine

/-! ### RUN -/

/-- A RUN telegram closes the open block (R203). -/
def runCloses (run : Word16) (st : RunState) (cls current : Nat) (b : Block) : Bool :=
  st != .run || run != b.run || cls != current

/-- A RUN telegram that is taken (R202, R203). -/
def takeRun (cfg : Startup) (run : Word16) (st : RunState) (cls : Nat) (s : State) : State :=
  let s1 := s.setSrc { s.src with runState := st, runNumber := run, pendingClass := cls }
  match s1.ss.openBlock with
  | some b => if runCloses run st cls s1.src.currentClass b then closeNow cfg s1 else s1
  | none => s1

/-- A RUN telegram judged by its run state and class (R202). -/
def judgeRun (cfg : Startup) (t : RxTelegram) (s : State) : State :=
  let r := runBodyOf t.body
  match runStateOf r.state with
  | some st => if r.cls ≤ 3 then takeRun cfg r.run st r.cls s else s
  | none => s

/-- RUN_TELEGRAM (R202). -/
def execRunTelegram (s : State) : Host.Outcome State Fault Refusal :=
  .next (takeTelegram .run judgeRun (catchUp s))

/-! ### ATTITUDE -/

/-- A sample clamped (R158). -/
def clampSample (a : AttitudeSample) : AttitudeSample :=
  { roll := clampInt (-50000) 50000 a.roll, lateral := clampInt (-200000) 200000 a.lateral }

/-- An ATTITUDE telegram taken into the hold (R158). -/
def takeAttitude (_cfg : Startup) (t : RxTelegram) (s : State) : State :=
  s.setSu { sample := some (clampSample (attitudeOf t.body)), age := 0, state := .fresh }

/-- ATTITUDE_TELEGRAM (R158). -/
def execAttitudeTelegram (s : State) : Host.Outcome State Fault Refusal :=
  .next (takeTelegram .attitude takeAttitude (catchUp s))

/-! ### HEADSTATE -/

/-- A HEADSTATE written into the record of its station: ABSENT when it carries CONFIG_BAD, otherwise PRESENT (R100). -/
def writeNeighbour (_cfg : Startup) (t : RxTelegram) (s : State) : State :=
  let r := s.neighbour t.station
  s.setNeighbour t.station
    { r with
      state := if StickyFlag.configBad.isSetIn (headstateStickyOf t.body) then .absent else .present
      mountOffset := some (headstateMountOf t.body)
      slot := some (headstateSlotOf t.body)
      age := 0 }

/-- HEADSTATE_TELEGRAM (R100). -/
def execHeadstateTelegram (s : State) : Host.Outcome State Fault Refusal :=
  .next (takeTelegram .headstate writeNeighbour (catchUp s))

/-! ### HANDOVER -/

/-- The non-empty entry nearest to a position, of those that pass a test, the lower index of two equally near (R109,
R120). -/
def nearestEntry (t : TrackTable) (ok : Entry → Bool) (x : Int) : Option (Nat × Entry) :=
  pickFirst (fun a b => (a.x - x).natAbs < (b.x - x).natAbs) ((t.evictable []).filter fun p => ok p.2)

/-- The entry that matches a position within a distance (R109, R120). -/
def matchingEntry (t : TrackTable) (ok : Entry → Bool) (x : Int) (within : Nat) : Option (Nat × Entry) :=
  (nearestEntry t ok x).filter fun p => (p.2.x - x).natAbs ≤ within

/-- The matching entry as adoption in place leaves it (R109, R113). -/
def Entry.adopt (e : Entry) (o : Origin) (rate : Int) : Entry :=
  let e := { e with origin := some o }
  match e.state with
  | .tentative => { e with state := .owned, hits := 3, v := clampRate rate }
  | .watched => { e with state := .owned }
  | .yielded => { e with state := .owned, yieldAge := 0, yieldTarget := none, reclaimMark := false }
  | .owned | .coasting => e

/-- The origin copied into the lane an entry holds in the open block, if the lane holds none (R109). -/
def copyOrigin (slot : Nat) (o : Origin) (b : Block) : Block :=
  b.mapLanes fun l => if l.slot = slot ∧ l.origin = none then { l with origin := some o } else l

/-- Adoption in place (R109): an entry that becomes OWNED is offered a lane; one already OWNED or COASTING copies the
origin into the lane it holds. -/
def adoptInPlace (i : Nat) (e : Entry) (o : Origin) (rate : Int) (s : State) : State :=
  let s1 := s.setEntry i (some (e.adopt o rate))
  match e.state with
  | .owned | .coasting =>
    match e.lane with
    | some slot => s1.setSs { s1.ss with openBlock := s1.ss.openBlock.map (copyOrigin slot o) }
    | none => s1
  | .tentative | .watched | .yielded => offerLane i s1.du.frameIndex s1

/-- A new OWNED entry from a HANDOVER (R110). -/
def adoptedEntry (h : Handover) (o : Origin) (tag : Byte) (seq : Word32) : Entry :=
  { state := .owned, tag := tag, seq := seq, x := clampPosition h.x, v := clampRate h.v, hits := 3, misses := 0
    height := h.height, origin := some o, yieldAge := 0, sharedStreak := 0, partner := none, lane := none
    yieldTarget := none, reclaimMark := false }

/-- Adoption as a new entry, in a free position or a victim's; TABLE_SATURATED when there is neither (R110). -/
def adoptNew (h : Handover) (o : Origin) (s : State) : State :=
  match makeRoom [] s with
  | some (i, s1) =>
    let s2 := placeEntry i (adoptedEntry h o) s1
    offerLane i s2.du.frameIndex s2
  | none => s.raise .tableSaturated

/-- A HANDOVER dispatched to the Track Table: adopted when it names this head, and without
effect when it names another: DEDUCED (R108 to R110, log 26). -/
def takeHandover (_cfg : Startup) (t : RxTelegram) (s : State) : State :=
  let h := handoverOf t.body
  let o : Origin := ⟨t.station, h.tag⟩
  if h.target = s.src.station then
    match matchingEntry s.tt (fun _ => true) h.x 12000 with
    | some (i, e) => adoptInPlace i e o h.v s
    | none => adoptNew h o s
  else s

/-- ADOPTION (R109). -/
def execAdoption (s : State) : Host.Outcome State Fault Refusal :=
  .next (takeTelegram .handover takeHandover (catchUp s))

/-! ### SIGHTING -/

/-- The index of the YIELDED entry that a SIGHTING's origin resolves (R112). -/
def yieldedTo (t : TrackTable) (tag : Byte) (sender : Nat) : Option Nat :=
  t.entries.findIdx? fun p =>
    match p with
    | some e => e.state == .yielded && e.tag == tag && e.yieldTarget == some sender
    | none => false

/-- This head gives way to the sender of a SIGHTING of a wire both own (R121). -/
def givesWay (mount senderMount lateral : Int) (own sender : Nat) : Bool :=
  let mine := (mount - lateral).natAbs
  let theirs := (senderMount - lateral).natAbs
  theirs < mine || mine == theirs && sender < own

/-- The entry at an index yields to a duplicate owner (R121). -/
def yieldDuplicate (i : Nat) (e : Entry) (s : State) : State :=
  stopLanes e.tag .yieldedDup (s.setEntry i (some { e with state := .watched, lane := none }))

/-- The check of duplicate ownership (R120, R121). -/
def checkDuplicate (cfg : Startup) (t : RxTelegram) (s : State) : State :=
  let r := s.neighbour t.station
  let lateral := sightingLateralOf t.body
  if r.overlaps cfg.mountOffset then
    match matchingEntry s.tt (fun e => e.state == .owned || e.state == .coasting) lateral 6000, r.mountOffset with
    | some (i, e), some m =>
      if givesWay cfg.mountOffset m lateral s.src.station t.station then yieldDuplicate i e s else s
    | _, _ => s
  else s

/-- A SIGHTING dispatched to the Track Table: one whose origin names this head can only resolve a yield; any other is
checked for duplicate ownership (R112, R120). -/
def takeSighting (cfg : Startup) (t : RxTelegram) (s : State) : State :=
  match sightingOriginOf t.body with
  | some o =>
    if o.station = s.src.station then
      match yieldedTo s.tt o.tag t.station with
      | some i => freeEntry i s
      | none => s
    else checkDuplicate cfg t s
  | none => checkDuplicate cfg t s

/-- SIGHTING_TELEGRAM (R112). -/
def execSightingTelegram (s : State) : Host.Outcome State Fault Refusal :=
  .next (takeTelegram .sighting takeSighting (catchUp s))

end Sys2Proof.Machine
end

