-- ==== Sys2Proof/Machine/Wear.lean ====
section
/-! DEFINITION. The completion of a bank (Chapters 7 and 8). -/

namespace Sys2Proof.Machine

/-- The completion of bank `k` with block `b`: its SIGHTINGs are queued, it becomes FREE, and a WAITING bank starts
computing (R138). The lane results are computed here: DESIGN CHOICE (log 21). -/
def completeBank (cfg : Startup) (k : Nat) (b : Block) (s : State) : State :=
  let s1 := reportBlock cfg b (resultOf cfg b) s
  let s2 := s1.setSs { s1.ss.setBank k .free with computing := none }
  match s2.ss.waitingBank with
  | some (j, w) => startCompute j w s2
  | none => s2

/-- The bank that the Wear Unit computes, with its block (R137). -/
def StripStore.computingBank (ss : StripStore) : Option (Nat × Block) :=
  match ss.computing with
  | none => none
  | some k =>
    match ss.banks[k]? with
    | some (.computing b) => some (k, b)
    | _ => none

/-- WEAR_COMPLETE (R138). -/
def execWearComplete (s : State) : Host.Outcome State Fault Refusal :=
  .next (inOperating (fun cfg s =>
    match s.ss.computingBank with
    | some (k, b) => completeBank cfg k b s
    | none => s) (catchUp s))

end Sys2Proof.Machine
end

