-- ==== Sys2Proof/Machine/Dispatch.lean ====
section
/-! DEFINITION. One arm for each command. -/

namespace Sys2Proof.Machine

def exec (i : Instr) (s : State) : Host.Outcome State Fault Refusal :=
  match i with
  | .reset => Sys2Proof.Machine.execReset s
  | .resetEnd straps => Sys2Proof.Machine.execResetEnd straps s
  | .configReadStart => Sys2Proof.Machine.execConfigReadStart s
  | .configReadDone levels => Sys2Proof.Machine.execConfigReadDone levels s
  | .loadingEnd => Sys2Proof.Machine.execLoadingEnd s
  | .tick dir => Sys2Proof.Machine.execTick dir s
  | .frameTrigger => Sys2Proof.Machine.execFrameTrigger s
  | .slotCycleEnd => Sys2Proof.Machine.execSlotCycleEnd s
  | .exposeRise => Sys2Proof.Machine.execExposeRise s
  | .exposeFall => Sys2Proof.Machine.execExposeFall s
  | .rateWindowEnd => Sys2Proof.Machine.execRateWindowEnd s
  | .pole => Sys2Proof.Machine.execPole s
  | .rowArrival nibbles => Sys2Proof.Machine.execRowArrival nibbles s
  | .darkRowDone => Sys2Proof.Machine.execDarkRowDone s
  | .rowAssociation => Sys2Proof.Machine.execRowAssociation s
  | .litRowEnd => Sys2Proof.Machine.execLitRowEnd s
  | .wearComplete => Sys2Proof.Machine.execWearComplete s
  | .yieldReclaim entry => Sys2Proof.Machine.execYieldReclaim entry s
  | .neighbourAbsent station => Sys2Proof.Machine.execNeighbourAbsent station s
  | .notTakingExpire station => Sys2Proof.Machine.execNotTakingExpire station s
  | .settleEnd => Sys2Proof.Machine.execSettleEnd s
  | .attitudeHeld => Sys2Proof.Machine.execAttitudeHeld s
  | .attitudeLost => Sys2Proof.Machine.execAttitudeLost s
  | .headstateTimer => Sys2Proof.Machine.execHeadstateTimer s
  | .telegramReceived levels => Sys2Proof.Machine.execTelegramReceived levels s
  | .telegramDiscard => Sys2Proof.Machine.execTelegramDiscard s
  | .runTelegram => Sys2Proof.Machine.execRunTelegram s
  | .attitudeTelegram => Sys2Proof.Machine.execAttitudeTelegram s
  | .headstateTelegram => Sys2Proof.Machine.execHeadstateTelegram s
  | .adoption => Sys2Proof.Machine.execAdoption s
  | .sightingTelegram => Sys2Proof.Machine.execSightingTelegram s
  | .transmitStart => Sys2Proof.Machine.execTransmitStart s
  | .arbitrationLost => Sys2Proof.Machine.execArbitrationLost s
  | .arbitrationWon => Sys2Proof.Machine.execArbitrationWon s
  | .transmitError => Sys2Proof.Machine.execTransmitError s
  | .transmitComplete => Sys2Proof.Machine.execTransmitComplete s
  | .lineIdle => Sys2Proof.Machine.execLineIdle s
  | .startBit => Sys2Proof.Machine.execStartBit s
  | .srfRise => Sys2Proof.Machine.execSrfRise s

end Sys2Proof.Machine
end

