-- ==== Sys2Proof/Safety.lean ====
section
/-! DEFINITION. What a safe state and a safe run are, in the terms the statements use. -/

namespace Sys2Proof.Machine

/-- No event of the last tick or frame trigger waits to be taken (Trigger.lean, log 3), for an OPERATING part. -/
def nothingDue (s : State) : Bool :=
  s.du.downCounter != 0
    && s.tt.entries.all (fun p => match p with
        | some e => !(e.state == .yielded && decide (80 ≤ e.yieldAge))
        | none => true)
    && s.nl.all (fun r => !(r.state == .present && decide (128 ≤ r.age)) && !(r.heldBack && r.notTaking == 0))
    && !(s.ec.state == .settling && s.ec.settleCount == 0)
    && !(s.su.state == .fresh && decide (65 ≤ s.su.age))
    && !(s.su.state != .lost && decide (1024 ≤ s.su.age))

/-- The part is OPERATING on `cfg` and nothing waits to be taken. -/
def Quiet (cfg : Startup) (s : State) : Prop := s.src.part = .operating cfg ∧ nothingDue s = true

/-- The HEADSTATEs in the transmit queue. -/
def LinkController.headstates (l : LinkController) : Nat := l.txQueue.countP Telegram.isHeadstate

/-- The link's capacities (R177, R179), and the LC is IDLE exactly when its queue is empty (R174). -/
structure LinkController.Bounded (l : LinkController) : Prop where
  queue : l.txQueue.length ≤ Config.transmitQueue
  oneHeadstate : l.headstates ≤ 1
  buffers : l.rxBuffers.length ≤ Config.receiveBuffers
  idleIff : l.tx = .idle ↔ l.txQueue = []

/-- The Front End's capacities (R36, R41). -/
structure FrontEnd.Bounded (f : FrontEnd) : Prop where
  expected : f.expected.length ≤ Config.expectedRows
  queue : f.queue.length ≤ Config.frameQueue

/-- The sizes of the tables and the lanes of the open block (R69, R99, R126, R129). -/
structure State.Sized (s : State) : Prop where
  entries : s.tt.entries.length = Config.entries
  records : s.nl.length = 8
  banks : s.ss.banks.length = 2
  lanes : ∀ b, s.ss.openBlock = some b → b.lanes.length ≤ Config.lanes

/-- The keep factor lies in 1 to 8, and so do those of the rules in force (R59, R60). -/
structure State.KeepInRange (s : State) : Prop where
  current : 1 ≤ s.keep ∧ s.keep ≤ 8
  rules : ∀ cfg, s.src.part = .operating cfg → ∀ r ∈ cfg.rules, 1 ≤ r.keep ∧ r.keep ≤ 8

/-- The ranges of the Exposure Controller (R13, R34), with the slot of the block in force (R198). -/
structure State.SlotInRange (s : State) : Prop where
  current : s.ec.currentSlot ≤ 3
  pending : ∀ p, s.ec.pendingSlot = some p → p ≤ 3
  settle : s.ec.settleCount ≤ 64
  streak : s.ec.strayStreak ≤ 1
  accepted : ∀ cfg, s.src.part = .operating cfg → cfg.slot ≤ 3

/-- LASER is high only while the part is OPERATING, EXPOSE is high and the frame of the cycle is lit (R10, R197). -/
def State.LaserSafe (s : State) : Prop :=
  s.ec.laser = .high →
    s.src.part.isOperating = true ∧ s.ec.expose = .high
      ∧ ∃ c, s.ec.cycle = some c ∧ c.phase = .exposing ∧ isDark c.frame = false

/-- The lanes of a block hold at most 28 strip rows each, none on a starved block, and no more rows than hits (R134,
R140). -/
def Block.StripsBounded (b : Block) : Prop :=
  ∀ l ∈ b.lanes, l.strips.length ≤ Config.stripRows ∧ l.strips.length ≤ l.hitFrames ∧ (b.bank = none → l.strips = [])

/-- The strip rows of every block: open, closed and not yet settled, and in a bank that waits or is computed (R134). -/
structure State.StripsBounded (s : State) : Prop where
  openBlock : ∀ b, s.ss.openBlock = some b → b.StripsBounded
  settling : ∀ b ∈ s.ss.settling, b.StripsBounded
  banks : ∀ b, .waiting b ∈ s.ss.banks ∨ .computing b ∈ s.ss.banks → b.StripsBounded

/-- The bank that a block holds (R127). -/
def StripStore.openBank (ss : StripStore) : List Nat := (ss.openBlock.bind (·.bank)).toList

/-- Every block held settling, and the open block unless it is starved, holds a FILLING bank of its own; a bank is
COMPUTING exactly when the Wear Unit computes it (R127, R132, R137). -/
structure State.BanksOwned (s : State) : Prop where
  banks : s.ss.banks.length = 2
  openBlock : ∀ b k, s.ss.openBlock = some b → b.bank = some k → s.ss.banks[k]? = some (.filling b.seq)
  settling : ∀ b ∈ s.ss.settling, ∃ k, b.bank = some k ∧ s.ss.banks[k]? = some (.filling b.seq)
  distinct : (s.ss.openBank ++ s.ss.settling.filterMap (·.bank)).Nodup
  computing : ∀ k, (∃ b, s.ss.banks[k]? = some (.computing b)) ↔ s.ss.computing = some k
  atMostTwo : s.ss.settling.length ≤ 2

/-! ### Results that several commands share, as their rules give them -/

/-- `v` is `u` with entry `e` at index `i` and offered a lane from frame `first` (R84, R129): bound with the next slot
when a block is open that has bound fewer than 8, the reclaim mark going into the lane (R116), and refused otherwise. -/
def Offered (i : Nat) (e : Entry) (first : Word32) (u v : State) : Prop :=
  (∀ b, u.ss.openBlock = some b → b.lanes.length < 8 →
    v = { u with
      tt := { u.tt with
        entries := u.tt.entries.set i (some { e with lane := some b.lanes.length, reclaimMark := false }) }
      ss := { u.ss with
        openBlock := some { b with lanes := b.lanes ++
          [{ slot := b.lanes.length, tag := e.tag, origin := e.origin, firstFrame := first, status := .taking
             strips := [], hitFrames := 0, skipped := 0, absent := 0, acc := .empty, crossing := false
             ended := false, handed := false, yieldedDup := false, reclaimed := e.reclaimMark }] } } })
  ∧ ((∀ b, u.ss.openBlock = some b → 8 ≤ b.lanes.length) →
    v = { u with tt := { u.tt with entries := u.tt.entries.set i (some e) } })

/-- The Strip Store with every TAKING lane of a tag stopped, in the open block and in closed blocks not yet settled
(R136); `flag` records the cause. -/
def StripStore.stopping (ss : StripStore) (tag : Byte) (flag : Lane → Lane) : StripStore :=
  let stop (b : Block) : Block :=
    { b with lanes := b.lanes.map fun l =>
        if l.status = .taking ∧ l.tag = tag then { flag l with status := .stopped } else l }
  { ss with openBlock := ss.openBlock.map stop, settling := ss.settling.map stop }

/-- `v` is `u` with entry `e` at index `i` freed (R85). -/
def Freed (i : Nat) (e : Entry) (u v : State) : Prop :=
  v = { u with
    tt := { u.tt with
      entries := (u.tt.entries.set i none).map fun p => p.map fun d =>
        if d.partner = some i then { d with partner := none, sharedStreak := 0 } else d }
    ss := u.ss.stopping e.tag fun l => { l with ended := true } }

/-- A tag is in use (R91): an entry carries it, or a lane of a block whose SIGHTINGs have not all been queued. -/
def State.UsesTag (s : State) (t : Byte) : Prop :=
  (∃ i e, s.tt.entry i = some e ∧ e.tag = t)
    ∨ (∃ b, s.ss.openBlock = some b ∧ ∃ l ∈ b.lanes, l.tag = t)
    ∨ (∃ b ∈ s.ss.settling, ∃ l ∈ b.lanes, l.tag = t)
    ∨ ∃ b, (.waiting b ∈ s.ss.banks ∨ .computing b ∈ s.ss.banks) ∧ ∃ l ∈ b.lanes, l.tag = t

/-- A tag is the first that is not in use from the next-tag counter up (R91). -/
def State.FirstFreeTag (s : State) (t : Byte) : Prop :=
  ¬s.UsesTag t ∧ ∀ j < (t - s.tt.nextTag).toNat, s.UsesTag (s.tt.nextTag + BitVec.ofNat 8 j)

/-- The entry `e` at index `i` is the victim of an eviction, among the entries not made in the row (R90, R93). -/
structure IsVictim (t : TrackTable) (made : List Nat) (i : Nat) (e : Entry) : Prop where
  entry : t.entry i = some e
  unmade : i ∉ made
  state : e.state = .tentative ∨ e.state = .watched ∨ e.state = .coasting
  tentative : ∀ j d, j ∉ made → t.entry j = some d → d.state = .tentative →
    e.state = .tentative ∧ e.hits ≤ d.hits
  watched : ∀ j d, j ∉ made → t.entry j = some d → d.state = .watched → e.state ≠ .tentative →
    e.state = .watched ∧ t.zone.distance d.x ≤ t.zone.distance e.x
  coasting : ∀ j d, j ∉ made → t.entry j = some d → d.state = .coasting → e.state = .coasting →
    d.misses ≤ e.misses
  /-- of those equal in that, the younger, here where no creation sequence has wrapped (R92) -/
  younger : (∀ j d, t.entry j = some d → d.seq.toNat < 2147483648) →
    ∀ j d, j ∉ made → t.entry j = some d → d.state = e.state →
      (e.state = .tentative → d.hits = e.hits) → (e.state = .watched → t.zone.distance d.x = t.zone.distance e.x) →
      (e.state = .coasting → d.misses = e.misses) → d.seq.toNat ≤ e.seq.toNat

/-- The Front End holds a frame of a block whose last frame is `last` (R132). -/
def Owes (s : State) (b : Block) (last : Word32) : Prop :=
  ∃ f ∈ heldFrames s, (f - b.openFrame).toNat ≤ (last - b.openFrame).toNat

/-- A block as its close leaves it, with its last frame and its closing distance (R130). -/
def Block.closedAt (b : Block) (last distance : Word32) : Block :=
  { b with
    closing := some ⟨last, distance⟩, short := decide ((last - b.openFrame).toNat + 1 < 32) }

/-- A lane at settling: DONE when it was TAKING (R132). -/
def Lane.settled (l : Lane) : Lane := if l.status = .taking then { l with status := .done } else l

/-- The Strip Store `v` is `u` after closed block `b` with bank `k` has settled (R132, R137): without lanes it is
discarded, while the Wear Unit computes its bank waits, and else its bank is COMPUTING, or FREE in the same step when no
lane has a hit, which is log 18. -/
def SettlesTo (b : Block) (k : Nat) (u v : StripStore) : Prop :=
  let b' := { b with lanes := b.lanes.map Lane.settled }
  (b.lanes = [] → v = { u with banks := u.banks.set k .free })
    ∧ (b.lanes ≠ [] → u.computing ≠ none → v = { u with banks := u.banks.set k (.waiting b') })
    ∧ (u.computing = none → (∃ l ∈ b.lanes, l.hitFrames ≠ 0) →
        v = { u with banks := u.banks.set k (.computing b'), computing := some k })
    ∧ (u.computing = none → (∀ l ∈ b.lanes, l.hitFrames = 0) → v = { u with banks := u.banks.set k .free })

/-- The Strip Store `v` after the open block `b` of `s`, with bank `k`, has closed at frame `last` (R130, R132): it is
held settling while the Front End holds a frame of it, and has settled when the Front End holds none. -/
def BankClosesTo (last distance : Word32) (b : Block) (k : Nat) (s : State) (v : StripStore) : Prop :=
  let c := b.closedAt last distance
  let u : StripStore := { s.ss with openBlock := none }
  (b.lanes ≠ [] → Owes s b last → v = { u with settling := u.settling ++ [c] })
    ∧ (b.lanes = [] ∨ ¬Owes s b last → SettlesTo c k u v)

/-- The state after the SIGHTINGs of some lanes of block `b` have been queued in order of lane slot (R138, R140): of the
lanes with hits those for which the transmit queue has room join it, and the origin of an entry whose lane so reports it
is cleared (R111; which entry is log 11); any other is discarded with REPORT_LOST, its origin kept (R180). An IDLE Link
Controller is CONTENDING in the same step (log 12). -/
def reported (cfg : Startup) (b : Block) (result : Lane → LaneResult) (lanes : List Lane) (s : State) : State :=
  let due := lanes.filter fun l => l.hitFrames ≠ 0
  let fit := due.take (12 - s.lc.txQueue.length)
  { s with
    tt := { s.tt with entries := s.tt.entries.map fun p => p.map fun e =>
      if ∃ l ∈ fit, l.tag = e.tag ∧ l.origin ≠ none ∧ l.origin = e.origin then { e with origin := none } else e }
    lc := { s.lc with
      txQueue := s.lc.txQueue ++ fit.map fun l => .sighting (sightingOf cfg b (result l) l)
      tx := if s.lc.tx = .idle ∧ fit ≠ [] then .contending false else s.lc.tx
      sticky := if fit.length < due.length then s.lc.sticky ||| StickyFlag.reportLost.mask else s.lc.sticky } }

/-- What becomes of the open block `b` of `s` when a cause closes it at frame `last` (R130, R132): no entry has a lane;
with a bank the block is held settling or has settled, and a starved one has reported its lanes with hits, its owed lit
frames counted absent (R140). What it owes takes in the row in process (log 30). -/
def ClosesTo (cfg : Startup) (last distance : Word32) (b : Block) (s t : State) : Prop :=
  let dropped : State :=
    { s with
      tt := { s.tt with entries := s.tt.entries.map fun p => p.map fun e => { e with lane := none } }
      ss := { s.ss with openBlock := none } }
  (∀ k, b.bank = some k → t.lc = s.lc ∧ t.tt = dropped.tt ∧ BankClosesTo last distance b k s t.ss)
  ∧ (b.bank = none →
    let owed (l : Lane) : Nat := (heldFrames s).countP fun f =>
      decide (f.toNat % 8 ≠ 7 ∧ (f - b.openFrame).toNat ≤ (last - b.openFrame).toNat
        ∧ (f - l.firstFrame).toNat ≤ (last - l.firstFrame).toNat)
    let lanes := b.lanes.map fun l =>
      if l.status = .taking then { l with status := .done, absent := l.absent + owed l } else l
    let w := reported cfg (b.closedAt last distance) (fun _ => .clear) lanes dropped
    t.lc = w.lc ∧ t.tt = w.tt ∧ t.ss = w.ss)

/-- What settles when the Front End has treated a row or a frame and stands as in `s` (R132): nothing when no closed
block waits, and of one or two that wait, which is all there can be, each of which the Front End holds no frame. -/
def SettlesAfter (s t : State) : Prop :=
  (s.ss.settling = [] → t.ss = s.ss ∧ t.lc = s.lc ∧ t.tt = s.tt)
    ∧ (∀ b k c, s.ss.settling = [b] → b.bank = some k → b.closing = some c →
      t.lc = s.lc ∧ t.tt = s.tt
        ∧ (Owes s b c.lastFrame → t.ss = s.ss)
        ∧ (¬Owes s b c.lastFrame → SettlesTo b k { s.ss with settling := [] } t.ss))
    ∧ ∀ b k c b' k' c', s.ss.settling = [b, b'] → b.bank = some k → b.closing = some c → b'.bank = some k' →
      b'.closing = some c' →
      t.lc = s.lc ∧ t.tt = s.tt
        ∧ (Owes s b c.lastFrame → Owes s b' c'.lastFrame → t.ss = s.ss)
        ∧ (¬Owes s b c.lastFrame → Owes s b' c'.lastFrame → SettlesTo b k { s.ss with settling := [b'] } t.ss)
        ∧ (Owes s b c.lastFrame → ¬Owes s b' c'.lastFrame → SettlesTo b' k' { s.ss with settling := [b] } t.ss)
        ∧ (¬Owes s b c.lastFrame → ¬Owes s b' c'.lastFrame →
            ∃ w, SettlesTo b k { s.ss with settling := [] } w ∧ SettlesTo b' k' w t.ss)

/-- The natural end of the open block `b` of `s` at its frame `last` (R131): the block closes, and then what the Front
End holds no frame of settles. -/
def EndsBlock (cfg : Startup) (last distance : Word32) (b : Block) (s t : State) : Prop :=
  ∃ w, w = { s with tt := w.tt, ss := w.ss, lc := w.lc } ∧ ClosesTo cfg last distance b s w ∧ SettlesAfter w t

/-- A TAKING lane, whose range ends with frame `last`, with the lit frames of its range that became absent counted (R40,
R133, R135). -/
def Lane.withAbsent (last : Word32) (lost : List Word32) (l : Lane) : Lane :=
  if l.status = .taking then
    { l with absent := l.absent + lost.countP fun f =>
        decide (f.toNat % 8 ≠ 7 ∧ (f - l.firstFrame).toNat ≤ (last - l.firstFrame).toNat) }
  else l

/-- The Strip Store after some frames have become absent, counted in the lanes of the open block, where frame `now` is
the latest, and in those of closed blocks not yet settled (R40, R133, R135). -/
def StripStore.withAbsent (ss : StripStore) (now : Word32) (lost : List Word32) : StripStore :=
  let count (b : Block) : Block :=
    { b with lanes := b.lanes.map (Lane.withAbsent ((b.closing.map (·.lastFrame)).getD now) lost) }
  { ss with openBlock := ss.openBlock.map count, settling := ss.settling.map count }

/-- `v` is `u` after frame `f`, which the Front End of `u` holds no more, has become absent: counted, when lit, in the
TAKING lanes whose range holds it (R40, R135), with the natural end of the open block when it is that block's frame
whose index mod 32 is 31 (R131), and then with the settling of what it was the last held frame of (R132). -/
def BecomesAbsent (cfg : Startup) (f : Word32) (u v : State) : Prop :=
  let ends (o : Block) : Prop :=
    f.toNat % 32 = 31 ∧ (f - o.openFrame).toNat ≤ (u.du.frameIndex - o.openFrame).toNat
  v = { u with tt := { u.tt with entries := v.tt.entries }, ss := v.ss, lc := v.lc }
    ∧ (f.toNat % 32 ≠ 31 ∨ (∀ o, u.ss.openBlock = some o → o.closing = none ∧ ¬ends o) →
        SettlesAfter { u with ss := u.ss.withAbsent u.du.frameIndex [f] } v)
    ∧ ∀ o, u.ss.openBlock = some o → o.closing = none → ends o → EndsBlock cfg f u.du.distance o u v

/-- `v` is `u` after the expected frames `older` have left the list and become absent one after the other, the oldest
first, those after each and then `rest` still in the list (R37, R132). -/
def AbsentInTurn (cfg : Startup) (rest : List ExpectedRow) : List ExpectedRow → State → State → Prop
  | [], u, v => v = u
  | e :: older, u, v =>
    ∃ w, BecomesAbsent cfg e.frame { u with fe := { u.fe with expected := older ++ rest } } w
      ∧ AbsentInTurn cfg rest older w v

/-- The stray count of a dark row: the cells that match no enabled exclusion window and whose raw intensity is T_stray
or more (R22, R46). -/
def strayCells (cfg : Startup) (cells : List RowCell) : Nat :=
  ((List.range cells.length).filter fun i =>
    decide ((∀ w ∈ cfg.windows, ¬(w.enabled = true ∧ Nat.land i w.mask = Nat.land w.base w.mask))
      ∧ cfg.tStray ≤ (cells.getD i ⟨0, 0⟩).intensity.toNat)).length

/-- The row in process right after the Front End has taken queued row `r` (R42): with its class GATE_ONLY it takes the
prediction and the gate of each non-empty entry with it (R56). -/
def rowTaken (t : TrackTable) (r : QueuedRow) : RowInProcess :=
  { frame := r.frame, cls := r.cls, cells := r.cells
    gates :=
      if r.cls = .gateOnly then
        t.entries.filterMap fun p => p.map fun e => { x := e.x, width := e.gate, seq := e.seq }
      else []
    heights := [], processed := [], candidates := [], associated := false }

/-- `q` is n / m rounded half away from zero (R156, R161, R167). -/
def RoundsHalfAway (q n : Int) (m : Nat) : Prop :=
  (2 * (q * m - n)).natAbs ≤ m ∧ ((2 * (q * m - n)).natAbs = m → n.natAbs < (q * m).natAbs)

/-- No two entries carry one tag, and no block that holds tags has more than 8 lanes (R91, R129). -/
structure State.TagsOwned (s : State) : Prop where
  distinct : ∀ i j a b, s.tt.entry i = some a → s.tt.entry j = some b → a.tag = b.tag → i = j
  entries : s.tt.entries.length = Config.entries
  openLanes : ∀ b, s.ss.openBlock = some b → b.lanes.length ≤ Config.lanes
  settlingLanes : ∀ b ∈ s.ss.settling, b.lanes.length ≤ Config.lanes
  bankLanes : ∀ b, .waiting b ∈ s.ss.banks ∨ .computing b ∈ s.ss.banks → b.lanes.length ≤ Config.lanes

/-- The state after a list of commands, each run on what the one before left. -/
def runAll : List Instr → State → Host.Outcome State Fault Refusal
  | [], s => .next s
  | c :: cs, s =>
    match exec c s with
    | .next s' => runAll cs s'
    | .fault r => .fault r
    | .refused r => .refused r

end Sys2Proof.Machine
end

