-- ==== Sys2Proof/Certificates/Slice0/Obligations.lean ====
section
/-! DEFINITION. The statements for the provers. A frame is written as an equation t = { s with … }: every field that
is not named in it is as it was, and a field set to t's own value may have changed. `Quiet cfg s` (Safety.lean) says
that the part is OPERATING on cfg and that nothing of the last tick or trigger waits to be taken (log 3). -/

open Sys2Proof Sys2Proof.Machine

/-! ### The queue of commands -/

/-- A step takes the command at the front of the queue. That a step on an empty queue changes nothing is the model's
choice (log 1). -/
def Obligations.StepTakesFrontCommand : Prop :=
  (∀ (c : Instr) (rest : List Instr) (s : State), s.pending = c :: rest → step s = exec c (s.setPending rest))
    ∧ ∀ s : State, s.pending = [] → step s = .next s

/-- Every command, in every state, answers a next state and leaves the queue of commands alone: no command stops the
part (log 2). -/
def Obligations.EveryCommandCompletes : Prop :=
  ∀ (c : Instr) (s : State), ∃ t, exec c s = .next t ∧ t.pending = s.pending

/-! ### Reset and LOADING -/

/-- RESET returns every block to its reset state, from any state, and only the commands that wait stay; and what that
state holds where the spec gives the value (R193, R13, R19, R34, R58, R59, R70, R99, R126, R170, R186, R205). Where the
spec gives none, State.reset holds the model's choice (log 5, log 6), which the first clause alone takes in. -/
def Obligations.ResetLeavesSpecValues : Prop :=
  (∀ s : State, exec .reset s = .next (State.reset.setPending s.pending))
    ∧ State.reset.du =
      { distance := 0, direction := .forward, downCounter := 0, frameIndex := 0, mark := none, rateRunning := 0
        rateLast := 0 }
    ∧ State.reset.ec.pendingSlot = none ∧ State.reset.ec.state = .steady ∧ State.reset.ec.settleCount = 0
    ∧ State.reset.ec.strayStreak = 0 ∧ State.reset.ec.cycle = none ∧ State.reset.ec.expose = .low
    ∧ State.reset.ec.laser = .low
    ∧ State.reset.fe.expected = [] ∧ State.reset.fe.queue = [] ∧ State.reset.fe.inProcess = none
    ∧ State.reset.fe.background.length = 2048 ∧ (∀ b ∈ State.reset.fe.background, b = 0)
    ∧ State.reset.keep = 8
    ∧ (∀ i, State.reset.tt.entry i = none) ∧ State.reset.tt.nextTag = 0 ∧ State.reset.tt.creationSeq = 0
    ∧ (∀ station, (State.reset.neighbour station).state = .unknown
        ∧ (State.reset.neighbour station).mountOffset = none ∧ (State.reset.neighbour station).slot = none
        ∧ (State.reset.neighbour station).age = 0 ∧ (State.reset.neighbour station).notTaking = 0)
    ∧ State.reset.ss.openBlock = none ∧ State.reset.ss.settling = [] ∧ State.reset.ss.blockSeq = 0
    ∧ State.reset.ss.banks = [.free, .free] ∧ State.reset.ss.computing = none
    ∧ State.reset.su = { sample := none, age := 0, state := .lost }
    ∧ State.reset.lc.txQueue = [] ∧ State.reset.lc.tx = .idle ∧ State.reset.lc.rx = .waitIdle
    ∧ State.reset.lc.rxBuffers = [] ∧ State.reset.lc.sticky = 0
    ∧ State.reset.src.runState = .idle ∧ State.reset.src.runNumber = 0 ∧ State.reset.src.pendingClass = 0
    ∧ State.reset.src.currentClass = 0

/-- RESET_END: the part enters LOADING and reads the straps, STN0 the least significant bit, as the station number
less one (R193, R194). -/
def Obligations.ResetEndReadsStraps : Prop :=
  ∀ (straps : BitVec 3) (s : State), s.src.part = .held →
    exec (.resetEnd straps) s =
        .next { s with src := { s.src with part := .loading .waiting, station := straps.toNat + 1 } }
      ∧ 1 ≤ straps.toNat + 1 ∧ straps.toNat + 1 ≤ 8

/-- CONFIG_READ_START drives CFG_CS low and sends the read instruction 3 and the address 0 on CFG_DO, bit by bit, the
most significant bit of each byte first; CONFIG_READ_DONE takes 128 bytes from the levels of CFG_DI, the most
significant bit of each first, and drives CFG_CS high (R195). -/
def Obligations.ConfigReadDrivesMemory : Prop :=
  (∀ s : State, s.src.part = .loading .waiting →
    exec .configReadStart s =
      .next { s with src := { s.src with
        part := .loading (.reading
          (([3, 0, 0] : List Byte).flatMap fun b =>
            [7, 6, 5, 4, 3, 2, 1, 0].map fun k => if b.getLsbD k then Pin.high else Pin.low))
        cfgCs := .low } })
  ∧ ∀ (levels sent : List Pin) (s : State), s.src.part = .loading (.reading sent) → levels.length = 1024 →
    ∃ bytes : List Byte,
      exec (.configReadDone levels) s =
          .next { s with src := { s.src with part := .loading (.checking bytes), cfgCs := .high } }
        ∧ bytes.length = 128
        ∧ ∀ (k : Nat) (b : Byte), bytes[k]? = some b → ∀ j, j < 8 →
          (b.getLsbD (7 - j) = true ↔ levels[8 * k + j]? = some .high)

/-- LOADING_END on a good block: the part is OPERATING on the block brought into range, each block takes its figures,
and the first HEADSTATE is queued with the sticky flags raised during LOADING (R196, R201, R4, R13, R70, R183). That the
LC is CONTENDING with it in the same step is DEDUCED (log 12). -/
def Obligations.LoadingEndAcceptsGoodBlock : Prop :=
  ∀ (block : List Byte) (s : State), s.src.part = .loading (.checking block) →
    isBlank block = false → crcGood block = true →
    s.lc.txQueue = [] → s.lc.tx = .idle → s.ec.pendingSlot = none →
    exec .loadingEnd s =
      .next { s with
        src := { s.src with
          part := .operating (acceptedOf block), runState := .idle, runNumber := 0, pendingClass := 0
          currentClass := 0 }
        du := { s.du with downCounter := (acceptedOf block).pitch, mark := none }
        ec := { s.ec with currentSlot := (acceptedOf block).slot }
        tt := { s.tt with
          zone :=
            { left := (acceptedOf block).mountOffset - 256000, right := (acceptedOf block).mountOffset + 256000
              leftSetBy := none, rightSetBy := none } }
        lc := { s.lc with
          tx := .contending false
          sticky := 0
          txQueue :=
            [.headstate
              { mountOffset := (acceptedOf block).mountOffset, slot := (acceptedOf block).slot
                settling := s.ec.state == .settling, keep := s.keep, run := 0, runState := .idle
                blockSeq := s.ss.blockSeq, frameIndex := s.du.frameIndex, distance := s.du.distance
                presence := presenceMap s.nl s.src.station, attitude := s.su.state, entries := s.tt.count
                sticky := s.lc.sticky ||| (if wasClamped block then StickyFlag.configClamped.mask else 0)
                  ||| (if wasTrimmed block then StickyFlag.windowsTrimmed.mask else 0)
                mark := s.du.mark }] } }

/-- A blank block or a bad CRC makes the part CONFIG_BAD, and a HEADSTATE with the raw mount offset and slot and with
CONFIG_BAD is queued at the end of LOADING, and again at each HEADSTATE_TIMER (R196, R197, R183, R184). While another is
in transmission it waits, and one that is queued and not in transmission it replaces (R181). That the LC is CONTENDING
with it in the same step is DEDUCED (log 12). -/
def Obligations.ConfigBadReports : Prop :=
  ∀ (block : List Byte) (s : State),
    let bad : Headstate :=
      { mountOffset := intOf (field block 0 3), slot := (block.getD 7 0).toNat % 4, settling := false
        keep := 8, run := 0, runState := .idle, blockSeq := 0, frameIndex := 0, distance := s.du.distance
        presence := 0, attitude := .lost, entries := 0
        sticky := s.lc.sticky ||| StickyFlag.configBad.mask, mark := none }
    let reported (src : StartupControl) : State :=
      { s with
        src := src
        du := { s.du with mark := none }
        lc := { s.lc with tx := .contending false, sticky := 0, txQueue := [.headstate bad] } }
    (s.lc.txQueue = [] → s.lc.tx = .idle →
      (s.src.part = .loading (.checking block) → (isBlank block = true ∨ crcGood block = false) →
        exec .loadingEnd s = .next (reported { s.src with part := .configBad block }))
      ∧ (s.src.part = .configBad block → exec .headstateTimer s = .next (reported s.src)))
    ∧ (s.src.part = .configBad block → s.lc.sendsHeadstate = true →
      exec .headstateTimer s = .next { s with lc := { s.lc with headstateDue := true } })
    ∧ ∀ i g, s.src.part = .configBad block → s.lc.headstates = 1 → s.lc.txQueue[i]? = some (.headstate g) →
      ¬(s.lc.tx = .sending ∧ i = 0) →
      exec .headstateTimer s =
        .next { s with
          du := { s.du with mark := none }
          lc := { s.lc with
            txQueue := s.lc.txQueue.set i (.headstate { bad with sticky := bad.sticky ||| g.sticky, mark := g.mark })
            tx := if i = 0 then .contending false else s.lc.tx
            lineOut := if i = 0 then [] else s.lc.lineOut, sticky := 0 } }

/-- Whatever 128 bytes the memory gives, the accepted block lies in the ranges of R198, is tied as R199 says, and its
enabled windows cover at most 1,536 cells (R200); and a block whose fields already are so is accepted as it is, with
neither CONFIG_CLAMPED nor WINDOWS_TRIMMED raised. A figure out of its range takes the nearer end, a source other than 0
is RATE, the bits above bit 10 of a window are cleared (R198), the tied fields are then changed as R199 says, and of the
windows in order each enabled one is left so while the coverage of those left so does not pass 1,536 cells with its own
(R200). CONFIG_CLAMPED is raised exactly when a field was changed by R198 or R199, WINDOWS_TRIMMED exactly when a window
was disabled. -/
def Obligations.AcceptedBlockInRange : Prop :=
  ∀ block : List Byte,
    let inRange (c : Startup) : Prop :=
      (-1500000 ≤ c.mountOffset ∧ c.mountOffset ≤ 1500000)
        ∧ c.refHeight ≤ 4000 ∧ (1 ≤ c.pitch ∧ c.pitch ≤ 64) ∧ (5 ≤ c.exposure ∧ c.exposure ≤ 40) ∧ c.slot ≤ 3
        ∧ (1 ≤ c.bandLow ∧ c.bandLow < c.bandHigh ∧ c.bandHigh ≤ 4095)
        ∧ (1 ≤ c.tDet ∧ c.tDet ≤ c.tFace ∧ c.tFace ≤ 4095) ∧ (1 ≤ c.tStray ∧ c.tStray ≤ 4095)
        ∧ (c.windows.length = 4 ∧ ∀ w ∈ c.windows, w.base < 2048 ∧ w.mask < 2048)
        ∧ ((c.windows.filter (·.enabled)).map windowCoverage).sum ≤ 1536
        ∧ (c.rules.length = 4 ∧ ∀ r ∈ c.rules, (1 ≤ r.keep ∧ r.keep ≤ 8) ∧
            (r.source = 0 ∧ 1 ≤ r.threshold ∧ r.threshold ≤ 4 ∨ r.source = 1 ∧ r.threshold ≤ 255))
        ∧ (c.classes.length = 4 ∧ ∀ w ∈ c.classes, (3000 ≤ w.radius ∧ w.radius ≤ 9000) ∧
            (6000 ≤ w.nominal ∧ w.nominal ≤ 18000) ∧ w.radius ≤ w.nominal ∧ w.wearLimit ≤ w.nominal
            ∧ w.staggerLimit ≤ 1000000)
    let raw := startupOf block
    let near (lo hi x : Nat) : Nat := max lo (min hi x)
    let low := near 1 4095 raw.bandLow
    let high := near 1 4095 raw.bandHigh
    let masked (w : Window) : Window := { w with base := w.base % 2048, mask := w.mask % 2048 }
    let class' (w : WireClass) : WireClass :=
      let nominal := max (near 6000 18000 w.nominal) (near 3000 9000 w.radius)
      { radius := near 3000 9000 w.radius, nominal := nominal
        wearLimit := min (near 0 18000 w.wearLimit) nominal, staggerLimit := near 0 1000000 w.staggerLimit }
    let rule' (r : GovernorRule) : GovernorRule :=
      { r with
        source := if r.source = 0 then 0 else 1
        threshold := if r.source = 0 then near 1 4 r.threshold else near 0 255 r.threshold
        keep := near 1 8 r.keep }
    let tied : Startup :=
      { raw with
        mountOffset := max (-1500000) (min 1500000 raw.mountOffset), refHeight := near 0 4000 raw.refHeight
        pitch := near 1 64 raw.pitch, exposure := near 5 40 raw.exposure, slot := near 0 3 raw.slot
        bandLow := if high ≤ low then 1 else low, bandHigh := if high ≤ low then 4095 else high
        tDet := near 1 4095 raw.tDet, tFace := max (near 1 4095 raw.tFace) (near 1 4095 raw.tDet)
        tStray := near 1 4095 raw.tStray
        windows := raw.windows.map masked, rules := raw.rules.map rule', classes := raw.classes.map class' }
    inRange (acceptedOf block)
      ∧ (inRange raw → acceptedOf block = raw ∧ wasClamped block = false ∧ wasTrimmed block = false)
      ∧ acceptedOf block = { tied with windows := (acceptedOf block).windows }
      ∧ (∀ (k : Nat) (w : Window), raw.windows[k]? = some w →
          ∃ e, (acceptedOf block).windows[k]? = some { masked w with enabled := e }
            ∧ (e = true ↔ w.enabled = true
              ∧ ((((acceptedOf block).windows.take k).filter (·.enabled)).map windowCoverage).sum
                + 2 ^ (11 - (List.range 11).countP fun j => w.mask.testBit j) ≤ 1536))
      ∧ (wasClamped block = true ↔ tied ≠ raw)
      ∧ (wasTrimmed block = true ↔ (acceptedOf block).windows ≠ tied.windows)

/-! ### Ticks and frame triggers -/

/-- TICK steps the distance count up on FORWARD and down on REVERSE, wrapping. In OPERATING in the held direction the
down-counter steps down besides, and nothing else changes; in LOADING and CONFIG_BAD the held direction follows and
nothing else changes (R1, R2, R3, R4). That a part held in reset counts nothing is read from R193 (log 6). -/
def Obligations.TickCountsDistance : Prop :=
  ∀ (dir : Pin) (s : State),
    let distance' := if dir = .high then s.du.distance + 1 else s.du.distance - 1
    let direction' : Direction := if dir = .high then .forward else .reverse
    (∀ cfg, Quiet cfg s → s.du.direction = direction' →
      exec (.tick dir) s =
        .next { s with du := { s.du with distance := distance', downCounter := s.du.downCounter - 1 } })
    ∧ ((∃ p, s.src.part = .loading p) ∨ (∃ b, s.src.part = .configBad b) →
      exec (.tick dir) s =
        .next { s with du := { s.du with distance := distance', direction := direction' } })
    ∧ (s.src.part = .held → exec (.tick dir) s = .next s)

/-- TICK against the held direction: the tick counts in the new direction, the rate of every entry is negated and
nothing else of it changes (R2, R3, R73), but that a close then takes its lane; no block is left open, and the open
block closes at the frame of the latest trigger (R130, R132, R137). That its closing distance is the one after the tick
is DEDUCED (log 25), and that a settled bank none of whose lanes has a hit is FREE in the same step (log 18). That a
starved block counts the row in process as owed, associated or not, is the model's choice (log 30); for its reports see
logs 11 and 12 (R140, R180). -/
def Obligations.ReversalNegatesRatesAndCloses : Prop :=
  ∀ (cfg : Startup) (dir : Pin) (s : State), Quiet cfg s →
    s.du.direction ≠ (if dir = .high then .forward else .reverse) →
    let distance' := if dir = .high then s.du.distance + 1 else s.du.distance - 1
    let reversed : State :=
      { s with tt := { s.tt with entries := s.tt.entries.map fun p => p.map fun e => { e with v := -e.v } } }
    ∃ t, exec (.tick dir) s = .next t
      ∧ t = { s with
          du := { s.du with
            distance := distance', direction := if dir = .high then .forward else .reverse
            downCounter := s.du.downCounter - 1 }
          tt := { s.tt with entries := t.tt.entries }
          ss := { s.ss with
            openBlock := none, settling := t.ss.settling, banks := t.ss.banks, computing := t.ss.computing }
          lc := t.lc }
      ∧ (s.ss.openBlock = none → t.tt = reversed.tt ∧ t.ss = s.ss ∧ t.lc = s.lc)
      ∧ ∀ b, s.ss.openBlock = some b → ClosesTo cfg s.du.frameIndex distance' b reversed t

/-- FRAME_TRIGGER when the down-counter has run out: the down-counter is reloaded, the frame index and the running
window count go up (R4, R5, R6), a pending slot becomes current and SETTLING counts down (R28, R29), the attitude age
grows (R159), every record and every entry ages (R101, R71, R114), and the own zone is latched (R71). The governor
evaluates when a block opens, and outside RUN when the frame index mod 32 is 0; otherwise the keep factor stays (R63,
R64). -/
def Obligations.FrameTriggerAges : Prop :=
  ∀ (cfg : Startup) (s : State), s.src.part = .operating cfg → s.du.downCounter = 0 →
    ∃ t, exec .frameTrigger s = .next t
      ∧ t = { s with
          du := { s.du with
            downCounter := cfg.pitch, frameIndex := s.du.frameIndex + 1
            rateRunning := min (s.du.rateRunning + 1) 255, mark := t.du.mark }
          ec := { s.ec with
            currentSlot := s.ec.pendingSlot.getD s.ec.currentSlot, pendingSlot := none
            settleCount := if s.ec.state = .settling then s.ec.settleCount - 1 else s.ec.settleCount
            cycle := t.ec.cycle }
          keep :=
            if s.src.runState = .run ∧ s.ss.openBlock = none ∨ (s.du.frameIndex + 1).toNat % 32 = 0
            then keepFactor cfg.rules s.fe.queue.length s.du.rateLast else s.keep
          tt := { s.tt with entries := t.tt.entries, zone := ownZone t.nl cfg.mountOffset }
          nl := s.nl.map fun r => { r with
            age := if r.state = .present then min (r.age + 1) 128 else r.age, notTaking := r.notTaking - 1 }
          ss := t.ss
          su := { s.su with age := if s.su.sample.isSome then min (s.su.age + 1) 1024 else s.su.age }
          lc := t.lc
          src := { s.src with currentClass := t.src.currentClass } }
      ∧ ∀ i, (s.tt.entry i = none → t.tt.entry i = none)
        ∧ ∀ e, s.tt.entry i = some e → ∃ e', t.tt.entry i = some e'
            ∧ e' = { e with
                x := max (-8000000) (min 8000000 (e.x + e.v))
                yieldAge := if e.state = .yielded then min (e.yieldAge + 1) 80 else e.yieldAge
                origin := e'.origin, lane := e'.lane, reclaimMark := e'.reclaimMark }

/-- FRAME_TRIGGER starts a slot cycle when none is in progress, in the slot just made current, with the times of R9;
otherwise the cycle in progress goes on, the frame is skipped and FRAME_SKIPPED is raised (R8, R9, R12, R28). A frame
whose index mod 32 is 31 is left out of the flag's clause, since its HEADSTATE takes the flag away at once (the order
inside the trigger is log 7). A skipped lit frame is counted in every TAKING lane of the open block, and in the lanes
bound at that trigger when it opens the block; a dark one in none (R135). The skip of the open block's frame whose index
mod 32 is 31 is its natural end: it closes at that frame, and no entry has a lane (R130, R131, R132, R137; the bank
without hits FREE at once is log 18, and what a starved block owes log 30). -/
def Obligations.FrameTriggerStartsOrSkips : Prop :=
  ∀ (cfg : Startup) (s : State), s.src.part = .operating cfg → s.du.downCounter = 0 →
    ∃ t, exec .frameTrigger s = .next t
      ∧ (s.ec.cycle = none →
          t.ec.cycle = some
            { frame := s.du.frameIndex + 1, slot := s.ec.pendingSlot.getD s.ec.currentSlot
              riseAt := 60 * s.ec.pendingSlot.getD s.ec.currentSlot + 10
              fallAt := 60 * s.ec.pendingSlot.getD s.ec.currentSlot + 10 + cfg.exposure, phase := .waiting })
      ∧ ∀ c, s.ec.cycle = some c →
          t.ec.cycle = some c
            ∧ ((s.du.frameIndex + 1).toNat % 32 ≠ 31 → StickyFlag.frameSkipped.isSetIn t.lc.sticky = true)
            ∧ (∀ b, s.ss.openBlock = some b → (s.du.frameIndex + 1).toNat % 32 ≠ 0 →
                (s.du.frameIndex + 1).toNat % 32 ≠ 31 →
                t.ss = { s.ss with openBlock := some { b with lanes := b.lanes.map fun l =>
                  if l.status = .taking ∧ (s.du.frameIndex + 1).toNat % 8 ≠ 7
                  then { l with skipped := l.skipped + 1 } else l } })
            ∧ (∀ b, s.ss.openBlock = some b → b.closing = none → (s.du.frameIndex + 1).toNat % 32 = 31 →
                (∀ k, b.bank = some k → BankClosesTo (s.du.frameIndex + 1) s.du.distance b k s t.ss)
                  ∧ (b.bank = none → t.ss = { s.ss with openBlock := none })
                  ∧ ∀ i e, t.tt.entry i = some e → e.lane = none)
            ∧ (s.src.runState = .run → s.ss.openBlock = none ∨ (s.du.frameIndex + 1).toNat % 32 = 0 →
                (s.du.frameIndex + 1).toNat % 8 ≠ 7 →
                ∃ b, t.ss.openBlock = some b ∧ b.openFrame = s.du.frameIndex + 1 ∧ ∀ l ∈ b.lanes, l.skipped = 1)

/-- A frame trigger in RUN with no block open opens one: the next block sequence, the run number and pending class
latched, the frame and distance latched, the governor's new keep factor with DECIMATED below 8, the FREE bank with the
lower number, which becomes FILLING, or BANK_STARVED on the block and among the sticky flags, and a fresh lane for each
OWNED or COASTING entry in order of entry index, in the next lane slot, with its tag, its origin and RECLAIMED when the
entry's reclaim mark is set; the entry's lane field names the slot and its mark is cleared (R127, R128, R63, R67, R116,
R203; the order inside the trigger is log 7). At index mod 32 = 31 the flag is left out, since a HEADSTATE takes it. -/
def Obligations.FrameTriggerOpensBlock : Prop :=
  ∀ (cfg : Startup) (s : State), s.src.part = .operating cfg → s.du.downCounter = 0 → s.src.runState = .run →
    s.ss.openBlock = none → s.ec.cycle = none →
    let owner (i : Nat) : Option Entry :=
      (s.tt.entry i).filter fun e => decide (e.state = .owned ∨ e.state = .coasting)
    let isFree (k : Nat) : Prop := s.ss.banks[k]? = some .free
    ∃ t b, exec .frameTrigger s = .next t
      ∧ t.keep = keepFactor cfg.rules s.fe.queue.length s.du.rateLast
      ∧ t.src.currentClass = s.src.pendingClass
      ∧ t.ss = { s.ss with openBlock := some b, blockSeq := s.ss.blockSeq + 1, banks := t.ss.banks }
      ∧ b = { seq := s.ss.blockSeq + 1, run := s.src.runNumber, cls := s.src.pendingClass
              openFrame := s.du.frameIndex + 1, openDistance := s.du.distance, closing := none
              bank := b.bank, lanes := b.lanes, ambient := false, decimated := decide (t.keep < 8)
              starved := b.bank.isNone, short := false }
      ∧ (∀ k, b.bank = some k → isFree k ∧ (∀ j < k, ¬isFree j)
          ∧ t.ss.banks = s.ss.banks.set k (.filling (s.ss.blockSeq + 1)))
      ∧ (b.bank = none → (∀ k, ¬isFree k) ∧ t.ss.banks = s.ss.banks)
      ∧ ((s.du.frameIndex + 1).toNat % 32 ≠ 31 →
          t.lc = { s.lc with sticky :=
            if b.bank = none then s.lc.sticky ||| StickyFlag.bankStarved.mask else s.lc.sticky })
      ∧ b.lanes = (((List.range 8).filterMap owner).zipIdx.map fun p =>
          { slot := p.2, tag := p.1.tag, origin := p.1.origin, firstFrame := s.du.frameIndex + 1, status := .taking
            strips := [], hitFrames := 0, skipped := 0, absent := 0, acc := .empty, crossing := false, ended := false
            handed := false, yieldedDup := false, reclaimed := p.1.reclaimMark })
      ∧ ∀ i e, i < 8 → s.tt.entry i = some e → ∃ e', t.tt.entry i = some e' ∧ e'.origin = e.origin
          ∧ (owner i ≠ none →
              e'.lane = some ((List.range i).filterMap owner).length ∧ e'.reclaimMark = false)
          ∧ (owner i = none → e'.lane = e.lane ∧ e'.reclaimMark = e.reclaimMark)

/-- In RUN a trigger whose frame index mod 32 is 0 leaves a block open whose first frame is that frame: a block still
open is closed first, with the frame before as its last, and a block with a bank that still waits for rows is held
settling (R127, R130, R131, R132). The order inside the trigger is the model's choice (log 7). -/
def Obligations.GroupStartOpensFreshBlock : Prop :=
  ∀ (cfg : Startup) (s : State), s.src.part = .operating cfg → s.du.downCounter = 0 → s.src.runState = .run →
    (s.du.frameIndex + 1).toNat % 32 = 0 →
    ∃ t b, exec .frameTrigger s = .next t ∧ t.ss.openBlock = some b ∧ b.openFrame = s.du.frameIndex + 1
      ∧ ∀ old, s.ss.openBlock = some old → old.bank ≠ none → old.lanes ≠ [] →
          (∃ r ∈ s.fe.queue, (r.frame - old.openFrame).toNat ≤ (s.du.frameIndex - old.openFrame).toNat) →
          t.ss.settling = s.ss.settling ++
            [{ old with
                closing := some ⟨s.du.frameIndex, s.du.distance⟩
                short := decide ((s.du.frameIndex - old.openFrame).toNat + 1 < 32) }]

/-- At a trigger whose frame index mod 32 is 31 a HEADSTATE is due that carries the new frame index, the distance count,
the announced slot, and every sticky flag and the pole mark held, which it takes away (R183, R184, R16, R32, R185).
While another HEADSTATE is in transmission it waits; one that is queued and not in transmission it replaces; else it
joins the tail, at a full queue in place of the oldest SIGHTING with REPORT_LOST, and with none to displace it is not
queued (R181). That it is taken after the trigger's other work, and so carries the new index, is the model's choice (log
7), and that an IDLE LC is CONTENDING in the step in which a telegram joins is DEDUCED (log 12). At a full queue a
HANDOVER displaces the oldest SIGHTING, or else the HEADSTATE, which is returned, or else is discarded, always with
REPORT_LOST (R180, R182). -/
def Obligations.TriggerQueuesHeadstate : Prop :=
  let transmitted (l : LinkController) (i : Nat) : Prop := l.tx = .sending ∧ i = 0
  let oldestSighting (l : LinkController) (i : Nat) : Prop :=
    (∃ g, l.txQueue[i]? = some (.sighting g)) ∧ ¬transmitted l i
      ∧ ∀ j < i, ∀ g, l.txQueue[j]? = some (.sighting g) → transmitted l j
  let noSighting (l : LinkController) : Prop := ∀ i g, l.txQueue[i]? = some (.sighting g) → transmitted l i
  let joined (l : LinkController) (x : Telegram) : LinkController :=
    { l with txQueue := l.txQueue ++ [x], tx := if l.tx = .idle then .contending false else l.tx }
  let displaced (l : LinkController) (i : Nat) (x : Telegram) : LinkController :=
    { l with
      txQueue := l.txQueue.eraseIdx i ++ [x]
      tx := if i = 0 then .contending false else l.tx, lineOut := if i = 0 then [] else l.lineOut }
  (∀ (cfg : Startup) (s : State), s.src.part = .operating cfg → s.du.downCounter = 0 →
    (s.du.frameIndex + 1).toNat % 32 = 31 → (s.src.runState = .run → s.ss.openBlock ≠ none) →
    (s.ec.cycle ≠ none → s.ss.openBlock = none) →
    let flags := if s.ec.cycle = none then s.lc.sticky else s.lc.sticky ||| StickyFlag.frameSkipped.mask
    ∃ t h, exec .frameTrigger s = .next t
      ∧ h.mountOffset = cfg.mountOffset ∧ h.slot = s.ec.pendingSlot.getD s.ec.currentSlot
      ∧ h.settling = decide (s.ec.state = .settling) ∧ h.keep = s.keep
      ∧ h.run = s.src.runNumber ∧ h.runState = s.src.runState ∧ h.blockSeq = s.ss.blockSeq
      ∧ h.frameIndex = s.du.frameIndex + 1 ∧ h.distance = s.du.distance ∧ h.presence = presenceMap t.nl s.src.station
      ∧ h.attitude = s.su.state ∧ h.entries = s.tt.count ∧ h.sticky = flags ∧ h.mark = s.du.mark
      ∧ (s.lc.sendsHeadstate = true →
          t.lc = { s.lc with headstateDue := true, sticky := flags } ∧ t.du.mark = s.du.mark)
      ∧ (s.lc.headstates = 0 → s.lc.txQueue.length < 12 →
          t.lc = { joined s.lc (.headstate h) with sticky := 0 } ∧ t.du.mark = none)
      ∧ (s.lc.headstates = 0 → 12 ≤ s.lc.txQueue.length → ∀ i, oldestSighting s.lc i →
          t.lc = { displaced s.lc i (.headstate { h with sticky := flags ||| StickyFlag.reportLost.mask }) with
              sticky := 0 }
            ∧ t.du.mark = none)
      ∧ (s.lc.headstates = 0 → 12 ≤ s.lc.txQueue.length → noSighting s.lc →
          t.lc = { s.lc with sticky := flags ||| StickyFlag.reportLost.mask } ∧ t.du.mark = s.du.mark)
      ∧ ∀ i g, s.lc.headstates = 1 → s.lc.txQueue[i]? = some (.headstate g) → ¬transmitted s.lc i →
          t.du.mark = none
            ∧ t.lc = { s.lc with
                txQueue := s.lc.txQueue.set i (.headstate { h with
                  sticky := flags ||| g.sticky
                  mark := match s.du.mark, g.mark with
                    | none, m => m
                    | some m, none => some m
                    | some m, some _ => some { m with overwritten := true } })
                tx := if i = 0 then .contending false else s.lc.tx
                lineOut := if i = 0 then [] else s.lc.lineOut, sticky := 0 })
  ∧ ∀ (h : Handover) (s : State),
      (s.lc.txQueue.length < 12 → queueHandover h s = { s with lc := joined s.lc (.handover h) })
      ∧ (12 ≤ s.lc.txQueue.length → ∀ i, oldestSighting s.lc i →
          queueHandover h s =
            { s with lc := { displaced s.lc i (.handover h) with
                sticky := s.lc.sticky ||| StickyFlag.reportLost.mask } })
      ∧ (12 ≤ s.lc.txQueue.length → noSighting s.lc → ∀ i g, s.lc.headstates = 1 →
          s.lc.txQueue[i]? = some (.headstate g) → ¬transmitted s.lc i →
          queueHandover h s =
            { s with
              du := { s.du with
                mark := match g.mark, s.du.mark with
                  | none, held => held
                  | some m, none => some m
                  | some _, some held => some { held with overwritten := true } }
              lc := { displaced s.lc i (.handover h) with
                sticky := (s.lc.sticky ||| (g.sticky &&& ~~~1#16)) ||| StickyFlag.reportLost.mask } })
      ∧ (12 ≤ s.lc.txQueue.length → noSighting s.lc →
          (∀ i g, s.lc.txQueue[i]? = some (.headstate g) → transmitted s.lc i) →
          queueHandover h s = { s with lc := { s.lc with sticky := s.lc.sticky ||| StickyFlag.reportLost.mask } })

/-- The model's choice (log 2): a command whose event the part's state does not make due changes nothing. In an
OPERATING part to which something is owed, every command but RESET and those of the seven due events first takes all
that is owed, as those seven commands take it one after the other, and finds a Quiet part, for a frame pitch of 1 or
more (log 3). Where the part is not OPERATING nothing is ever owed. -/
def Obligations.EventsNotDueChangeNothing : Prop :=
  (∀ (cfg : Startup) (s : State), Quiet cfg s →
    exec .frameTrigger s = .next s ∧ (∀ i, exec (.yieldReclaim i) s = .next s)
      ∧ (∀ n, exec (.neighbourAbsent n) s = .next s) ∧ (∀ n, exec (.notTakingExpire n) s = .next s)
      ∧ exec .settleEnd s = .next s ∧ exec .attitudeHeld s = .next s ∧ exec .attitudeLost s = .next s)
  ∧ (∀ (cfg : Startup) (s : State), s.src.part = .operating cfg → 1 ≤ cfg.pitch → s.Sized →
    Quiet cfg (catchUp s)
      ∧ runAll
          ([.frameTrigger] ++ (List.range 8).map .yieldReclaim ++ [1, 2, 3, 4, 5, 6, 7, 8].map .neighbourAbsent
            ++ [1, 2, 3, 4, 5, 6, 7, 8].map .notTakingExpire ++ [.settleEnd, .attitudeHeld, .attitudeLost]) s =
          .next (catchUp s)
      ∧ ∀ c : Instr, c ≠ .reset → c ≠ .frameTrigger → (∀ i, c ≠ .yieldReclaim i) → (∀ n, c ≠ .neighbourAbsent n) →
          (∀ n, c ≠ .notTakingExpire n) → c ≠ .settleEnd → c ≠ .attitudeHeld → c ≠ .attitudeLost →
          exec c s = exec c (catchUp s))
  ∧ ∀ s : State, s.src.part.isOperating = false → catchUp s = s

/-- SETTLE_END at settle count 0 makes the state STEADY (R29); ATTITUDE_HELD from age 65 and ATTITUDE_LOST at age
1,024 change the attitude state (R159); NEIGHBOUR_ABSENT at age 128 makes the record of the station ABSENT (R101), and
NOT_TAKING_EXPIRE at not-taking count 0 lets the station bound the zone again (R117), both with the zone latched anew
at the same trigger, which is the model's choice (log 8). Nothing else changes. -/
def Obligations.AgeingEventsTakeEffect : Prop :=
  ∀ (cfg : Startup) (s : State), s.src.part = .operating cfg → s.du.downCounter ≠ 0 →
    (s.ec.state = .settling → s.ec.settleCount = 0 →
      exec .settleEnd s = .next { s with ec := { s.ec with state := .steady } })
    ∧ (s.su.state = .fresh → 65 ≤ s.su.age →
      exec .attitudeHeld s = .next { s with su := { s.su with state := .held } })
    ∧ (s.su.state ≠ .lost → 1024 ≤ s.su.age →
      exec .attitudeLost s = .next { s with su := { s.su with state := .lost } })
    ∧ ∀ (k : Nat) (r : Neighbour), s.nl[k]? = some r →
      (r.state = .present → 128 ≤ r.age →
        exec (.neighbourAbsent (k + 1)) s =
          .next { s with
            nl := s.nl.set k { r with state := .absent }
            tt := { s.tt with zone := ownZone (s.nl.set k { r with state := .absent }) cfg.mountOffset } })
      ∧ (r.heldBack = true → r.notTaking = 0 →
        exec (.notTakingExpire (k + 1)) s =
          .next { s with
            nl := s.nl.set k { r with heldBack := false }
            tt := { s.tt with zone := ownZone (s.nl.set k { r with heldBack := false }) cfg.mountOffset } })

/-- YIELD_RECLAIM at yield age 80: the entry becomes OWNED with its yield age and target cleared and all else kept, its
target's not-taking count becomes 256, the zone is latched with it, and the entry is offered a lane, which carries
RECLAIMED, or else keeps its reclaim mark (R115, R116, R103, R129). The mark `heldBack` on the record is the model's own
(log 8). A lane so bound counts the trigger's own frame when it is lit and was skipped (R135); that this is so at a
reclaim is DEDUCED (log 9). -/
def Obligations.ReclaimTakesWireBack : Prop :=
  ∀ (cfg : Startup) (i k : Nat) (e : Entry) (r : Neighbour) (s : State),
    s.src.part = .operating cfg → s.du.downCounter ≠ 0 → s.tt.entry i = some e → e.state = .yielded →
    80 ≤ e.yieldAge → e.yieldTarget = some (k + 1) → s.nl[k]? = some r →
    ∃ t, exec (.yieldReclaim i) s = .next t
      ∧ t = { s with
          tt := { s.tt with entries := t.tt.entries, zone := ownZone t.nl cfg.mountOffset }
          nl := s.nl.set k { r with notTaking := 256, heldBack := true }
          ss := { s.ss with openBlock := t.ss.openBlock } }
      ∧ (∀ j, j ≠ i → t.tt.entry j = s.tt.entry j)
      ∧ ((∀ b, s.ss.openBlock = some b → 8 ≤ b.lanes.length) →
          t.ss = s.ss ∧ t.tt.entry i =
            some { e with state := .owned, yieldAge := 0, yieldTarget := none, reclaimMark := true })
      ∧ ∀ b, s.ss.openBlock = some b → b.lanes.length < 8 →
          t.tt.entry i = some
              { e with state := .owned, yieldAge := 0, yieldTarget := none, reclaimMark := false
                       lane := some b.lanes.length }
            ∧ ∃ l, t.ss.openBlock = some { b with lanes := b.lanes ++ [l] } ∧ l.slot = b.lanes.length
                ∧ l.tag = e.tag ∧ l.origin = e.origin ∧ l.firstFrame = s.du.frameIndex ∧ l.status = .taking
                ∧ l.reclaimed = true ∧ l.strips = [] ∧ l.hitFrames = 0
                ∧ l.skipped =
                  if s.du.frameIndex.toNat % 8 ≠ 7 ∧ (∃ c, s.ec.cycle = some c ∧ c.frame ≠ s.du.frameIndex)
                  then 1 else 0

/-! ### The slot cycle, the rate window and pole marks -/

/-- EXPOSE_RISE raises EXPOSE, and LASER on a lit frame alone, and enters the frame with its class in a list that has
room; EXPOSE_FALL lowers both; SLOT_CYCLE_END ends the cycle (R8, R9, R10, R11, R36, R55, R65). That the end of a
cycle starts no other one, and changes nothing else, is DEDUCED (log 23). -/
def Obligations.SlotCycleExposes : Prop :=
  ∀ (cfg : Startup) (c : SlotCycle) (s : State), Quiet cfg s → s.ec.cycle = some c →
    (c.phase = .waiting → s.fe.expected.length < 2 →
      exec .exposeRise s =
        .next { s with
          ec := { s.ec with
            cycle := some { c with phase := .exposing }, expose := .high
            laser := if c.frame.toNat % 8 = 7 then .low else .high }
          fe := { s.fe with
            expected := s.fe.expected ++
              [{ frame := c.frame
                 cls := if c.frame.toNat % 8 = 7 then .dark
                   else if c.frame.toNat % 8 * s.keep % 8 < s.keep then .full else .gateOnly }] } })
    ∧ (c.phase = .exposing →
      exec .exposeFall s =
        .next { s with
          ec := { s.ec with cycle := some { c with phase := .exposed }, expose := .low, laser := .low } })
    ∧ (c.phase = .exposed → exec .slotCycleEnd s = .next { s with ec := { s.ec with cycle := none } })

/-- An exposure that finds two frames expected pushes the oldest out, with SENSOR_FAULT (R36); its frame is absent and,
when lit, is counted in the TAKING lanes whose range holds it, of the open block and of closed blocks not yet settled
(R40, R135), which then settle when nothing of them is held (R132, R137), and nothing else of the Strip Store, the Link
Controller or the table changes. A dark one is counted in none, and when its index mod 32 is 31 and it is of the open
block its absence is the natural end of that block, which closes at it (R130, R131; a bank without hits FREE at once is
log 18, what a starved block owes log 30, and its reports logs 11 and 12). -/
def Obligations.ThirdExposurePushesOldestOut : Prop :=
  ∀ (cfg : Startup) (c : SlotCycle) (a b : ExpectedRow) (s : State), Quiet cfg s → s.ec.cycle = some c →
    c.phase = .waiting → s.fe.expected = [a, b] →
    ∃ t, exec .exposeRise s = .next t
      ∧ t = { s with
          ec := { s.ec with
            cycle := some { c with phase := .exposing }, expose := .high
            laser := if c.frame.toNat % 8 = 7 then .low else .high }
          fe := { s.fe with expected := [b, ⟨c.frame, frameClass c.frame s.keep⟩] }
          tt := { s.tt with entries := t.tt.entries }
          ss := t.ss
          lc := t.lc }
      ∧ StickyFlag.sensorFault.isSetIn t.lc.sticky = true
      ∧ BecomesAbsent cfg a.frame
          { s with ec := t.ec, fe := t.fe
                   lc := { s.lc with sticky := s.lc.sticky ||| StickyFlag.sensorFault.mask } } t

/-- RATE_WINDOW_END: the running count becomes the last completed count and restarts from 0, in every part state but
reset (R6). -/
def Obligations.RateWindowCompletes : Prop :=
  ∀ s : State,
    ((∃ cfg, Quiet cfg s) ∨ (∃ p, s.src.part = .loading p) ∨ (∃ b, s.src.part = .configBad b)) →
    exec .rateWindowEnd s =
      .next { s with du := { s.du with rateLast := s.du.rateRunning, rateRunning := 0 } }

/-- POLE captures the distance count and frame index, overwritten if a mark was pending (R14, R15); in RUN it closes the
open block at the frame in progress (R17, R130): the block is held settling while the Front End holds a frame of it, and
has settled otherwise, a starved one with its reports (R132, R137, R140, R180; for these logs 11 and 12), and no entry
has a lane. That a settled bank none of whose lanes has a
hit is FREE in the same step is DEDUCED (log 18), and that a starved block counts the row in process as owed, associated
or not, is the model's choice (log 30). -/
def Obligations.PoleMarksAndCloses : Prop :=
  ∀ (cfg : Startup) (s : State), Quiet cfg s →
    let du' := { s.du with mark := some ⟨s.du.distance, s.du.frameIndex, s.du.mark.isSome⟩ }
    (s.src.runState ≠ .run → exec .pole s = .next { s with du := du' })
    ∧ (s.src.runState = .run →
        ∃ t, exec .pole s = .next t
          ∧ t = { s with
              du := du'
              tt := { s.tt with entries := t.tt.entries }
              ss := { s.ss with
                openBlock := none, settling := t.ss.settling, banks := t.ss.banks, computing := t.ss.computing }
              lc := t.lc }
          ∧ (s.ss.openBlock = none → t = { s with du := du' })
          ∧ ∀ b, s.ss.openBlock = some b → ClosesTo cfg s.du.frameIndex s.du.distance b s t)

/-! ### Rows -/

/-- SRF_RISE begins the counting of a row (R58). A row that is not 2048 cells long, and one that matches no expected
frame by tag and kind, is discarded with SENSOR_FAULT, and the lists stay as they were (R35, R38). -/
def Obligations.BadRowsRaiseSensorFault : Prop :=
  ∀ (cfg : Startup) (s : State), Quiet cfg s →
    exec .srfRise s = .next { s with fe := { s.fe with receiving := true } }
    ∧ ∀ nibbles : List Nibble, s.fe.receiving = true →
        (nibbles.length ≠ 12291
          ∨ ∃ row, sensorRowOf nibbles = some row
              ∧ ∀ e ∈ s.fe.expected, ¬(BitVec.ofNat 8 e.frame.toNat = row.tag
                  ∧ (e.cls = .dark ∧ row.kind = 0 ∨ e.cls ≠ .dark ∧ row.kind = 1))) →
        exec (.rowArrival nibbles) s =
          .next { s with
            fe := { s.fe with receiving := false }
            lc := { s.lc with sticky := s.lc.sticky ||| StickyFlag.sensorFault.mask } }

/-- A row is taken for the newest expected frame that it matches; that frame and every older one leave the list. With
room in the queue the row joins its tail, or is taken into process at once when nothing waits and nothing is in process,
a GATE_ONLY one with the prediction and gate of every non-empty entry; at a full queue it is dropped with QUEUE_DROP
(R37, R41, R42, R56). The older frames become absent one after the other, the oldest first, and after them that of a
dropped row. A lit one is counted in the TAKING lanes in whose range it is, of the open block and of closed blocks not
yet settled (R40, R135); the open block's frame whose index mod 32 is 31 is the natural end of that block (R130, R131);
and what a frame was the last held frame of settles with it, before the next one is treated (R132, R137). Nothing else
of the Strip Store, the Link Controller or the table changes. That a settled bank none of whose lanes has a hit is FREE
in the same step is DEDUCED (log 18), what a starved block owes is log 30, and its reports logs 11 and 12. -/
def Obligations.RowArrivalMatchesAndQueues : Prop :=
  ∀ (cfg : Startup) (nibbles : List Nibble) (row : SensorRow) (older newer : List ExpectedRow) (m : ExpectedRow)
    (s : State), Quiet cfg s → s.fe.receiving = true → sensorRowOf nibbles = some row →
    s.fe.expected = older ++ m :: newer → BitVec.ofNat 8 m.frame.toNat = row.tag →
    (m.cls = .dark ∧ row.kind = 0 ∨ m.cls ≠ .dark ∧ row.kind = 1) →
    (∀ e ∈ newer, ¬(BitVec.ofNat 8 e.frame.toNat = row.tag
      ∧ (e.cls = .dark ∧ row.kind = 0 ∨ e.cls ≠ .dark ∧ row.kind = 1))) →
    let joins : Prop := s.fe.queue.length < 4
    ∃ t, exec (.rowArrival nibbles) s = .next t
      ∧ t = { s with
          fe := t.fe, tt := { s.tt with entries := t.tt.entries }, ss := t.ss, lc := t.lc }
      ∧ (∀ p, s.fe.inProcess = some p → joins →
          t.fe = { s.fe with
            receiving := false, expected := newer, queue := s.fe.queue ++ [⟨m.frame, m.cls, row.cells⟩] })
      ∧ (s.fe.inProcess = none → s.fe.queue = [] →
          t.fe = { s.fe with
            receiving := false, expected := newer
            inProcess := some (rowTaken s.tt ⟨m.frame, m.cls, row.cells⟩) })
      ∧ (∀ p, s.fe.inProcess = some p → ¬joins →
          t.fe = { s.fe with receiving := false, expected := newer }
            ∧ StickyFlag.queueDrop.isSetIn t.lc.sticky = true)
      ∧ ∃ w, AbsentInTurn cfg (m :: newer) older { s with fe := { s.fe with receiving := false } } w
          ∧ (joins → t.tt = w.tt ∧ t.ss = w.ss ∧ t.lc = w.lc)
          ∧ (¬joins → ∃ v, t.tt = v.tt ∧ t.ss = v.ss ∧ t.lc = v.lc
              ∧ BecomesAbsent cfg m.frame
                  { w with
                    fe := { w.fe with expected := newer }
                    lc := { w.lc with sticky := w.lc.sticky ||| StickyFlag.queueDrop.mask } } v)

/-- A row of 2048 cells sent nibble by nibble as the sensor sends it is read back whole (R191). -/
def Obligations.SensorRowRoundTrip : Prop :=
  ∀ row : SensorRow, row.cells.length = 2048 → sensorRowOf row.nibbles = some row

/-- DARK_ROW_DONE: the row's raw intensities become the background (R43), the stray streak follows the stray count (R22,
R23), the row is released and the head of the queue is taken, a GATE_ONLY one with its gates (R42, R56). The slot, the
pending slot and the rest of the Exposure Controller change only at a second stray row. But for a second stray row
(InterferenceHopsOrReportsAmbient), the dark row of the open block's frame whose index mod 32 is 31 is its natural end:
the block closes at that frame, with the current distance, and no entry has a lane (R130, R131); any other dark row lets
closed blocks settle as R132 and R137 say and changes nothing else of the Strip Store, the Link Controller or the table.
That a settled bank none of whose lanes has a hit is FREE in the same step is DEDUCED (log 18); what a starved block
owes is log 30, and its reports are logs 11 and 12. -/
def Obligations.DarkRowSetsBackground : Prop :=
  ∀ (cfg : Startup) (row : RowInProcess) (s : State), Quiet cfg s → s.fe.inProcess = some row → row.cls = .dark →
    ∃ t, exec .darkRowDone s = .next t
      ∧ t = { s with
          ec := t.ec
          fe := { s.fe with
            background := row.cells.map (·.intensity), queue := s.fe.queue.tail, inProcess := t.fe.inProcess }
          tt := { s.tt with entries := t.tt.entries }, ss := t.ss, lc := t.lc }
      ∧ (s.fe.queue = [] → t.fe.inProcess = none)
      ∧ (∀ r rest, s.fe.queue = r :: rest → t.fe.inProcess = some (rowTaken s.tt r))
      ∧ (strayCells cfg row.cells < 16 → t.ec = { s.ec with strayStreak := 0 })
      ∧ (16 ≤ strayCells cfg row.cells → s.ec.strayStreak = 0 → t.ec = { s.ec with strayStreak := 1 })
      ∧ (16 ≤ strayCells cfg row.cells → s.ec.strayStreak ≠ 0 → t.ec.strayStreak = 0)
      ∧ (strayCells cfg row.cells < 16 ∨ s.ec.strayStreak = 0 →
          let released : State := { s with fe := { s.fe with inProcess := none } }
          let ends (b : Block) : Prop :=
            row.frame.toNat % 32 = 31
              ∧ (row.frame - b.openFrame).toNat ≤ (s.du.frameIndex - b.openFrame).toNat
          (row.frame.toNat % 32 ≠ 31 ∨ (∀ b, s.ss.openBlock = some b → b.closing = none ∧ ¬ends b) →
            SettlesAfter released t)
          ∧ ∀ b, s.ss.openBlock = some b → b.closing = none → ends b →
              EndsBlock cfg row.frame s.du.distance b released t)

/-- The second stray dark row (R22) in a row raises an interference event. A STEADY head whose number is above that of
every colliding neighbour hops to the least used of the other slots, the lowest of equals, with settle count 64 and
HOPPED; in every other case AMBIENT is raised, also on the open block, and the slot, the pending slot, the state and the
settle count stay (R24 to R27, R30, R31). The row of the open block's frame whose index mod 32 is 31 then ends that
block, and any other lets closed blocks settle (R130, R131, R132, R137; the bank without hits FREE at once is log 18,
what a starved block owes log 30, and its reports logs 11 and 12). -/
def Obligations.InterferenceHopsOrReportsAmbient : Prop :=
  ∀ (cfg : Startup) (row : RowInProcess) (s : State), Quiet cfg s → s.fe.inProcess = some row → row.cls = .dark →
    16 ≤ strayCells cfg row.cells → s.ec.strayStreak ≠ 0 →
    let collides (k : Nat) : Prop :=
      (s.neighbour k).state = .present
        ∧ (∃ m, (s.neighbour k).mountOffset = some m ∧ (m - cfg.mountOffset).natAbs ≤ 1024000)
        ∧ (s.neighbour k).slot = some s.ec.currentSlot
    let hops : Prop :=
      s.ec.state = .steady ∧ (∃ k, 1 ≤ k ∧ k ≤ 8 ∧ collides k)
        ∧ ∀ k, 1 ≤ k → k ≤ 8 → collides k → k < s.src.station
    let users (q : Nat) : Nat := ([1, 2, 3, 4, 5, 6, 7, 8].filter fun k =>
      decide ((s.neighbour k).state = .present
        ∧ (∃ m ∈ (s.neighbour k).mountOffset, (m - cfg.mountOffset).natAbs ≤ 1024000)
        ∧ (s.neighbour k).slot = some q)).length
    let ended (flag : StickyFlag) (mark : Block → Block) (t : State) : Prop :=
      let answered : State :=
        { s with
          fe := { s.fe with inProcess := none }
          ss := { s.ss with openBlock := s.ss.openBlock.map mark }
          lc := { s.lc with sticky := s.lc.sticky ||| flag.mask } }
      let ends (b : Block) : Prop :=
        row.frame.toNat % 32 = 31 ∧ (row.frame - b.openFrame).toNat ≤ (s.du.frameIndex - b.openFrame).toNat
      (row.frame.toNat % 32 ≠ 31 ∨ (∀ b, s.ss.openBlock = some b → b.closing = none ∧ ¬ends b) →
        SettlesAfter answered t)
      ∧ ∀ b, s.ss.openBlock = some b → b.closing = none → ends b →
          EndsBlock cfg row.frame s.du.distance (mark b) answered t
    ∃ t, exec .darkRowDone s = .next t
      ∧ (hops → ended .hopped id t ∧ ∃ p, t.ec = { s.ec with
            pendingSlot := some p, state := .settling, settleCount := 64, strayStreak := 0 }
          ∧ p ≤ 3 ∧ p ≠ s.ec.currentSlot
          ∧ ∀ q, q ≤ 3 → q ≠ s.ec.currentSlot →
              users p < users q ∨ users p = users q ∧ p ≤ q)
      ∧ (¬hops → ended .ambient (fun b => { b with ambient := true }) t ∧ t.ec = { s.ec with strayStreak := 0 })

/-- The processed intensity of cell i: raw less the background of that cell, floored at 0 (R45), then 0 under an
enabled window (R46), then 0 outside the height band or without a height (R47). -/
def Obligations.CleaningFollowsThreeSteps : Prop :=
  ∀ (cfg : Startup) (background : List Sample) (cells : List RowCell) (i : Nat) (c : RowCell), cells[i]? = some c →
    ∃ v : Nat, (cleanRow cfg background cells)[i]? = some v ∧ v ≤ 4095
      ∧ (v : Int) =
        if (∃ w ∈ cfg.windows, w.enabled = true ∧ Nat.land i w.mask = Nat.land w.base w.mask)
            ∨ c.height = 0 ∨ c.height.toNat < cfg.bandLow ∨ cfg.bandHigh < c.height.toNat
        then 0 else max 0 ((c.intensity.toNat : Int) - (background.getD i 0).toNat)

/-- The candidates of a lit row of 2048 cells: at most 8; the edges and the centre in order within 0 to 32,767; the
peak at least T_det; the height within the band (R49 to R54). A run is a longest stretch of cells at or above T_det, and
on a GATE_ONLY row it is found when one of its cells is in some gate (R55, R56). The candidates are those of the found
runs of 2 to 160 cells, in order of their first cells, or of the 8 of them that have the highest peaks, the lower first
cell going before among equals; each has the edges of R50 to R52, the peak cell of R53 and the clip of R52.
CANDIDATES_TRUNCATED is raised exactly when more than 8 are found or a found run has 161 cells or more (R49, R54). -/
def Obligations.CandidatesWellFormed : Prop :=
  ∀ (cfg : Startup) (background : List Sample) (row : RowInProcess), row.cells.length = 2048 →
    1 ≤ cfg.tDet →
    let p (i : Nat) : Nat := (cleanRow cfg background row.cells).getD i 0
    let isFound (a b : Nat) : Prop :=
      a ≤ b ∧ b < 2048 ∧ (∀ j, a ≤ j → j ≤ b → cfg.tDet ≤ p j) ∧ (a = 0 ∨ p (a - 1) < cfg.tDet)
        ∧ (b = 2047 ∨ p (b + 1) < cfg.tDet)
        ∧ (row.cls = .full ∨ ∃ j, a ≤ j ∧ j ≤ b ∧ ∃ g ∈ row.gates,
            ((cfg.mountOffset + ((j : Int) - 1024) * 250 - g.x).natAbs : Int) ≤ g.width)
    let peak (r : Nat × Nat) : Nat := (List.range (r.2 + 1 - r.1)).foldl (fun m k => max m (p (r.1 + k))) 0
    let gives (r : Nat × Nat) (c : Candidate) : Prop :=
      c.left = (if r.1 = 0 then 0
          else 16 * (r.1 - 1) + 16 * (cfg.tDet - p (r.1 - 1)) / (p r.1 - p (r.1 - 1)))
        ∧ c.right = (if r.2 = 2047 then 32767 else 16 * r.2 + 16 * (p r.2 - cfg.tDet) / (p r.2 - p (r.2 + 1)))
        ∧ c.clipped = (if r.1 = 0 then .lowSide else if r.2 = 2047 then .highSide else .no)
        ∧ ∃ j d, r.1 ≤ j ∧ j ≤ r.2 ∧ c.peak = p j ∧ row.cells[j]? = some d ∧ c.height = d.height.toNat
          ∧ (∀ k, r.1 ≤ k → k ≤ r.2 → p k ≤ p j) ∧ ∀ k, r.1 ≤ k → k < j → p k < p j
    let found := searchRow cfg background row
    found.2.1.length ≤ 8
      ∧ (∀ c ∈ found.2.1,
          c.left ≤ c.centre ∧ c.centre ≤ c.right ∧ c.right ≤ 32767 ∧ c.centre = (c.left + c.right) / 2
            ∧ cfg.tDet ≤ c.peak ∧ c.peak ≤ 4095 ∧ cfg.bandLow ≤ c.height ∧ c.height ≤ cfg.bandHigh
            ∧ 1 ≤ c.height)
      ∧ ∃ runs kept : List (Nat × Nat),
          runs.Pairwise (fun r q => r.1 < q.1)
            ∧ (∀ r, r ∈ runs ↔ isFound r.1 r.2 ∧ r.1 < r.2 ∧ r.2 - r.1 < 160)
            ∧ (found.2.2 = true ↔ 8 < runs.length ∨ ∃ a b, isFound a b ∧ 160 ≤ b - a)
            ∧ kept.Sublist runs ∧ kept.length = min 8 runs.length
            ∧ (∀ r ∈ kept, ∀ q ∈ runs, q ∉ kept → peak q < peak r ∨ peak q = peak r ∧ r.1 < q.1)
            ∧ List.Forall₂ gives kept found.2.1

/-- ROW_ASSOCIATION: the row gets its processed row, height codes and candidates and loses its raw cells (R48, R57), and
the Track Table treats it in this order (R76, R79, R104, R94): the association, in which an entry that did not exist
when the gates of a GATE_ONLY row were taken has no part (R79; that this holds where another entry's gate found the run
is DEDUCED, log 29); the updates, the merging, the creation
on a FULL row, the ownership tests and the handing on, each in order of entry index. Nothing else of the state changes.
The single steps, in any state: an update sets the entry as its hit, shared hit or miss says and offers a lane to one
confirmed as OWNED, or frees it (R80 to R85); duplicates merge into the older (R86); a candidate makes an entry in the
lowest free position or in a victim's, or fails the tests, or raises TABLE_SATURATED (R87 to R93); an entry past a
boundary is handed over and a WATCHED one well inside is taken over (R105, R106, R119); a hit is written into the TAKING
lane of its tag (R94, R133, R134, R165). That a shared hit marks CROSSING on a FULL row that writes no strip row is
DEDUCED (log 10), and that the search is made at this command is the model's choice (log 22). -/
def Obligations.RowAssociationTreatsRowWhole : Prop :=
  (∀ (cfg : Startup) (row : RowInProcess) (s : State), Quiet cfg s → s.fe.inProcess = some row → row.cls ≠ .dark →
    row.associated = false →
    let found := searchRow cfg s.fe.background row
    let row' : RowInProcess :=
      { row with
        cells := [], heights := row.cells.map (·.height), processed := found.1, candidates := found.2.1
        associated := true }
    let present := s.tt.entries.map fun p => p.filter fun e =>
      decide (row.cls = .full ∨ ∃ g ∈ row.gates, g.seq = e.seq)
    let taken := associate cfg.mountOffset present found.2.1
    let searched : State :=
      { s with
        fe := { s.fe with inProcess := some row' }
        lc := { s.lc with
          sticky := if found.2.2 then s.lc.sticky ||| StickyFlag.candidatesTruncated.mask else s.lc.sticky } }
    let merged := (List.range 8).foldl mergeAt ((List.range 8).foldl (updateEntry row' taken) searched)
    let created :=
      if row.cls = .full then
        ((untaken taken found.2.1).foldl (createFrom cfg.mountOffset) ([], merged)).2
      else merged
    let tested := (List.range 8).foldl (ownershipTest row.frame) created
    ∃ t, exec .rowAssociation s = .next t
      ∧ t = (List.range 8).foldl (handOn cfg row' taken s.tt) tested
      ∧ t = { s with
          fe := { s.fe with inProcess := some row' }
          du := { s.du with mark := t.du.mark }
          tt := { s.tt with
            entries := t.tt.entries, nextTag := t.tt.nextTag, creationSeq := t.tt.creationSeq }
          ss := { s.ss with openBlock := t.ss.openBlock, settling := t.ss.settling }
          lc := t.lc }
      ∧ t.tt.entries.length = s.tt.entries.length
      ∧ (row.cls = .gateOnly → t.tt.creationSeq = s.tt.creationSeq ∧ t.tt.nextTag = s.tt.nextTag))
  -- an update
  ∧ (∀ (row : RowInProcess) (taken : List Pairing) (u : State) (i : Nat) (e : Entry),
      u.tt.entry i = some e → (taken.map (·.entry)).Nodup →
      (∀ q d, q ∈ taken → q.entry = i → row.candidates[q.cand]? = some d →
        (∀ q' ∈ taken, q'.cand = q.cand → q' = q) →
        let e' := e.afterHit u.tt.zone q.err d.height
        (e.state = .tentative → e'.state = .owned → Offered i e' row.frame u (updateEntry row taken u i))
        ∧ (¬(e.state = .tentative ∧ e'.state = .owned) → updateEntry row taken u i = u.setEntry i (some e')))
      ∧ (∀ q q' d, q ∈ taken → q' ∈ taken → q.entry = i → q' ≠ q → q'.cand = q.cand →
          (∀ r ∈ taken, r.cand = q.cand → r = q ∨ r = q') → row.candidates[q.cand]? = some d →
          updateEntry row taken u i = u.setEntry i (some (e.afterShared u.tt.zone q.err d.height q'.entry)))
      ∧ ((∀ q ∈ taken, q.entry ≠ i) →
          (e.state = .tentative ∨ 8 ≤ e.missUpdate.misses → Freed i e u (updateEntry row taken u i))
          ∧ (e.state ≠ .tentative → e.missUpdate.misses < 8 →
              updateEntry row taken u i = u.setEntry i (some e.missUpdate))))
  -- a merging
  ∧ (∀ (u : State) (i : Nat) (a : Entry), u.tt.entry i = some a →
      let duplicates (j : Nat) (b : Entry) : Prop :=
        i < j ∧ u.tt.entry j = some b ∧ a.state ≠ .tentative ∧ b.state ≠ .tentative ∧ a.partner = some j
          ∧ b.partner = some i ∧ a.sharedStreak = 16 ∧ b.sharedStreak = 16 ∧ (a.v - b.v).natAbs ≤ 100
      (∀ j b, duplicates j b →
        (0 < (a.seq - b.seq).toInt → Freed i a u (mergeAt u i))
        ∧ ((a.seq - b.seq).toInt ≤ 0 → Freed j b u (mergeAt u i)))
      ∧ ((∀ j b, ¬duplicates j b) → mergeAt u i = u))
  -- a creation
  ∧ (∀ (mount : Int) (made : List Nat) (u : State) (c : Candidate),
      let m := carLateral mount c.centre
      let passes : Prop := c.clipped = .no ∧ ∀ j d, u.tt.entry j = some d → 12000 < (m - d.x).natAbs
      let placed (i : Nat) (w : State) : State :=
        { w with tt := { w.tt with
          nextTag := nextFreeTag w + 1, creationSeq := w.tt.creationSeq + 1
          entries := w.tt.entries.set i (some
            { state := .tentative, tag := nextFreeTag w, seq := w.tt.creationSeq + 1, x := m, v := 0, hits := 1
              misses := 0, height := c.height, origin := none, yieldAge := 0, sharedStreak := 0, partner := none
              lane := none, yieldTarget := none, reclaimMark := false }) } }
      (¬passes → createFrom mount (made, u) c = (made, u))
      ∧ (passes → ∀ i, i < u.tt.entries.length → u.tt.entry i = none → (∀ j < i, u.tt.entry j ≠ none) →
          createFrom mount (made, u) c = (i :: made, placed i u))
      ∧ (passes → (∀ j < u.tt.entries.length, u.tt.entry j ≠ none) →
          (∃ i e w, IsVictim u.tt made i e ∧ Freed i e u w
            ∧ createFrom mount (made, u) c = (i :: made, placed i w))
          ∨ (∀ j d, j ∉ made → u.tt.entry j = some d → d.state = .owned ∨ d.state = .yielded)
            ∧ createFrom mount (made, u) c = (made, u.raise .tableSaturated)))
  -- an ownership test
  ∧ (∀ (frame : Word32) (u : State) (i : Nat) (e : Entry), u.tt.entry i = some e →
      let z := u.tt.zone
      let handedTo (target : Nat) : State :=
        let q := queueHandover
          { target := target, tag := e.tag, x := e.x, v := e.v, height := e.height
            frame := BitVec.ofNat 16 u.du.frameIndex.toNat } u
        { q with
          tt := { q.tt with entries := q.tt.entries.set i (some
            { e with
              state := .yielded, yieldAge := 0, yieldTarget := some target, reclaimMark := false, lane := none }) }
          ss := q.ss.stopping e.tag fun l => { l with handed := true } }
      (e.state = .owned ∨ e.state = .coasting →
        (∀ k, z.rightSetBy = some k → z.right + 8000 ≤ e.x → ownershipTest frame u i = handedTo k)
        ∧ (∀ k, z.leftSetBy = some k → e.x < z.left - 8000 → ¬(z.rightSetBy ≠ none ∧ z.right + 8000 ≤ e.x) →
            ownershipTest frame u i = handedTo k)
        ∧ (¬(z.rightSetBy ≠ none ∧ z.right + 8000 ≤ e.x) → ¬(z.leftSetBy ≠ none ∧ e.x < z.left - 8000) →
            ownershipTest frame u i = u))
      ∧ (e.state = .watched → z.left + 8000 ≤ e.x → e.x < z.right - 8000 →
          Offered i { e with state := .owned } frame u (ownershipTest frame u i))
      ∧ (e.state = .watched → ¬(z.left + 8000 ≤ e.x ∧ e.x < z.right - 8000) → ownershipTest frame u i = u)
      ∧ (e.state = .tentative ∨ e.state = .yielded → ownershipTest frame u i = u))
  -- a handing on
  ∧ ∀ (cfg : Startup) (row : RowInProcess) (taken : List Pairing) (before : TrackTable) (u : State) (i : Nat),
      (taken.map (·.entry)).Nodup →
      (∀ e e' q d, before.entry i = some e → u.tt.entry i = some e' → e'.seq = e.seq → q ∈ taken → q.entry = i →
        row.candidates[q.cand]? = some d →
        let written (b : Block) (l : Lane) : Lane :=
          if l.status = .taking ∧ l.tag = e'.tag
              ∧ (row.frame - l.firstFrame).toNat ≤
                (((b.closing.map (·.lastFrame)).getD u.du.frameIndex) - l.firstFrame).toNat
          then { l with
            hitFrames := l.hitFrames + 1, acc := accumulate cfg u.su d l.acc
            crossing := l.crossing || decide (row.cls = .full ∧ ∃ q' ∈ taken, q'.cand = q.cand ∧ q' ≠ q)
            strips :=
              if row.cls = .full ∧ b.bank ≠ none ∧ l.strips.length < 28 then
                l.strips ++ [(List.range 64).map fun k =>
                  if d.centre / 16 + k < 32 then 0 else row.processed.getD (d.centre / 16 + k - 32) 0]
              else l.strips }
          else l
        let write (b : Block) : Block := { b with lanes := b.lanes.map (written b) }
        handOn cfg row taken before u i =
          { u with ss := { u.ss with openBlock := u.ss.openBlock.map write, settling := u.ss.settling.map write } })
      ∧ (before.entry i = none ∨ u.tt.entry i = none ∨ (∀ q ∈ taken, q.entry ≠ i)
          ∨ (∃ e e', before.entry i = some e ∧ u.tt.entry i = some e' ∧ e'.seq ≠ e.seq) →
          handOn cfg row taken before u i = u)

/-- LIT_ROW_END releases the row, settles the closed blocks of which the Front End then holds no frame, and takes the
head of the queue, a GATE_ONLY row with its gates (R57, R132, R137, R42, R56). That a settled bank none of whose lanes
has a hit is FREE in the same step is DEDUCED (log 18). -/
def Obligations.LitRowEndTakesNext : Prop :=
  ∀ (cfg : Startup) (row : RowInProcess) (s : State), Quiet cfg s → s.fe.inProcess = some row → row.cls ≠ .dark →
    row.associated = true →
    ∃ t, exec .litRowEnd s = .next t
      ∧ t = { s with
          fe := { s.fe with queue := s.fe.queue.tail, inProcess := t.fe.inProcess }
          tt := { s.tt with entries := t.tt.entries }, ss := t.ss, lc := t.lc }
      ∧ (s.fe.queue = [] → t.fe.inProcess = none)
      ∧ (∀ r rest, s.fe.queue = r :: rest → t.fe.inProcess = some (rowTaken s.tt r))
      ∧ SettlesAfter { s with fe := { s.fe with inProcess := none } } t

/-! ### The Track Table's arithmetic -/

/-- The association: each entry takes or shares at most one candidate, each candidate serves at most two entries, and
two only when both are confirmed and their predictions are within 6,000 µm; every pair lies within the entry's gate; and
an entry without a candidate has no untaken one within its gate (R74, R75, R76, R77). It is what a walk over all pairs
within the gates gives, the smallest absolute error first, then the lower entry index, then the lower candidate index,
by R76's table; where one other entry has taken the candidate it is shared exactly when both entries are confirmed,
their predictions are no more than 6,000 µm apart and no untaken candidate lies within the gate (R77). The gate is that
of R75. -/
def Obligations.AssociationIsExclusive : Prop :=
  ∀ (mount : Int) (entries : List (Option Entry)) (cands : List Candidate),
    let taken := associate mount entries cands
    (taken.map (·.entry)).Nodup
      ∧ (∀ c, (takers taken c).length ≤ 2)
      ∧ (∀ p ∈ taken, ∃ e d, entries.getD p.entry none = some e ∧ cands[p.cand]? = some d
          ∧ p.err = carLateral mount d.centre - e.x ∧ (p.err.natAbs : Int) ≤ e.gate)
      ∧ (∀ e : Entry, e.gate =
          if e.state = .tentative then 12000
          else if e.state = .coasting then min (3000 + 1000 * (e.misses : Int)) 11000 else 3000)
      ∧ (∀ p ∈ taken, ∀ q ∈ taken, p.cand = q.cand → p.entry ≠ q.entry →
          ∃ a b, entries.getD p.entry none = some a ∧ entries.getD q.entry none = some b
            ∧ a.state ≠ .tentative ∧ b.state ≠ .tentative ∧ (a.x - b.x).natAbs ≤ 6000)
      ∧ (∀ i e, entries.getD i none = some e → (∀ p ∈ taken, p.entry ≠ i) →
          ∀ c d, cands[c]? = some d → ((carLateral mount d.centre - e.x).natAbs : Int) ≤ e.gate →
            ∃ p ∈ taken, p.cand = c)
      ∧ ∃ (pairs : List Pairing) (walk : Nat → List Pairing),
          (∀ p, p ∈ pairs ↔ ∃ e d, entries.getD p.entry none = some e ∧ cands[p.cand]? = some d
            ∧ p.err = carLateral mount d.centre - e.x ∧ (p.err.natAbs : Int) ≤ e.gate)
          ∧ pairs.Pairwise (fun p q => p.err.natAbs < q.err.natAbs
              ∨ p.err.natAbs = q.err.natAbs ∧ (p.entry < q.entry ∨ p.entry = q.entry ∧ p.cand < q.cand))
          ∧ walk 0 = [] ∧ walk pairs.length = taken
          ∧ ∀ n p, pairs[n]? = some p →
              ((∃ q ∈ walk n, q.entry = p.entry) → walk (n + 1) = walk n)
              ∧ ((∀ q ∈ walk n, q.entry ≠ p.entry) →
                  ((∀ q ∈ walk n, q.cand ≠ p.cand) → walk (n + 1) = walk n ++ [p])
                  ∧ (∀ q ∈ walk n, q.cand = p.cand → (∀ r ∈ walk n, r.cand = p.cand → r = q) →
                      let mayShare : Prop := ∃ a b, entries.getD p.entry none = some a
                        ∧ entries.getD q.entry none = some b ∧ a.state ≠ .tentative ∧ b.state ≠ .tentative
                        ∧ (a.x - b.x).natAbs ≤ 6000
                        ∧ ∀ r ∈ pairs, r.entry = p.entry → ∃ r' ∈ walk n, r'.cand = r.cand
                      (mayShare → walk (n + 1) = walk n ++ [p]) ∧ (¬mayShare → walk (n + 1) = walk n))
                  ∧ (∀ q ∈ walk n, ∀ r ∈ walk n, q.cand = p.cand → r.cand = p.cand → q ≠ r →
                      walk (n + 1) = walk n))

/-- The update of an entry by a hit, a shared hit and a miss: position, rate, height, misses, hits and state (R80 to
R83). -/
def Obligations.UpdatesFollowTheTable : Prop :=
  ∀ (e : Entry) (z : Zone) (err : Int) (height other : Nat),
    let x' := max (-8000000) (min 8000000 (e.x + err.tdiv 2))
    let ifIn : EntryState := if z.left ≤ x' ∧ x' < z.right then .owned else .watched
    e.afterHit z err height =
        { e with
          x := x', v := max (-4000) (min 4000 (e.v + err.tdiv 8)), height := height, misses := 0, partner := none
          sharedStreak := 0
          hits := if e.state = .tentative then e.hits + 1 else e.hits
          state := match e.state with
            | .tentative => if 2 ≤ e.hits then ifIn else .tentative
            | .coasting => .owned
            | .owned => .owned
            | .watched => .watched
            | .yielded => .yielded }
      ∧ (e.state ≠ .tentative → e.afterShared z err height other =
          { e with
            x := x', height := height, misses := 0, partner := some other
            sharedStreak := if e.partner = some other then min (e.sharedStreak + 1) 16 else 1
            state := if e.state = .coasting then .owned else e.state })
      ∧ (e.state ≠ .tentative → e.missUpdate =
          { e with
            misses := if e.state = .owned then 1 else e.misses + 1
            state := if e.state = .owned then .coasting else e.state, partner := none, sharedStreak := 0 })

/-- The own zone lies in the sector, L is less than m and R at least m. An eligible neighbour with a smaller mount
offset sets L, the nearest, and of two with the same offset the one with the lower station, at floor((m + m_s) / 2);
with none, L is the sector edge; R likewise with the larger offsets (R102, R103). A neighbour is eligible when it is
PRESENT, less than 512,000 µm away and its not-taking count is 0; that one held back is not until NOT_TAKING_EXPIRE is
log 8. -/
def Obligations.OwnZoneWithinSector : Prop :=
  ∀ (nl : List Neighbour) (m : Int),
    let z := ownZone nl m
    let bounds (k : Nat) (o : Int) : Prop := ∃ r, nl[k]? = some r
      ∧ r.state = .present ∧ r.mountOffset = some o ∧ (o - m).natAbs < 512000 ∧ r.notTaking = 0 ∧ r.heldBack = false
    (m - 256000 ≤ z.left ∧ z.left < m ∧ m ≤ z.right ∧ z.right ≤ m + 256000)
      ∧ (z.leftSetBy = none → z.left = m - 256000 ∧ ∀ k o, bounds k o → m ≤ o)
      ∧ (z.rightSetBy = none → z.right = m + 256000 ∧ ∀ k o, bounds k o → o ≤ m)
      ∧ (∀ n, z.leftSetBy = some n → ∃ k o, n = k + 1 ∧ bounds k o ∧ o < m ∧ z.left = (m + o) / 2
          ∧ ∀ k' o', bounds k' o' → o' < m → o' < o ∨ o' = o ∧ k ≤ k')
      ∧ ∀ n, z.rightSetBy = some n → ∃ k o, n = k + 1 ∧ bounds k o ∧ m < o ∧ z.right = (m + o) / 2
          ∧ ∀ k' o', bounds k' o' → m < o' → o < o' ∨ o' = o ∧ k ≤ k'

/-! ### The governor -/

/-- The keep pattern with its whole table (R65): which values of the frame index mod 8 are kept under each keep
factor, how many lit frames in eight, and that index mod 8 = 7 is dark. -/
def Obligations.KeepPatternTable : Prop :=
  (∀ (f : Word32) (k : Nat),
    frameClass f k =
      if f.toNat % 8 = 7 then .dark else if f.toNat % 8 * k % 8 < k then .full else .gateOnly)
    ∧ ∀ n : Nat, n < 134217728 →
      let kept (k : Nat) := (List.range 32).filter fun j => frameClass (BitVec.ofNat 32 (32 * n + j)) k = .full
      let gated (k : Nat) := (List.range 32).filter fun j => frameClass (BitVec.ofNat 32 (32 * n + j)) k = .gateOnly
      kept 1 = [0, 8, 16, 24]
        ∧ kept 2 = [0, 4, 8, 12, 16, 20, 24, 28]
        ∧ kept 3 = [0, 3, 6, 8, 11, 14, 16, 19, 22, 24, 27, 30]
        ∧ kept 4 = [0, 2, 4, 6, 8, 10, 12, 14, 16, 18, 20, 22, 24, 26, 28, 30]
        ∧ kept 5 = [0, 2, 4, 5, 8, 10, 12, 13, 16, 18, 20, 21, 24, 26, 28, 29]
        ∧ kept 6 = [0, 2, 3, 4, 6, 8, 10, 11, 12, 14, 16, 18, 19, 20, 22, 24, 26, 27, 28, 30]
        ∧ kept 7 = [0, 2, 3, 4, 5, 6, 8, 10, 11, 12, 13, 14, 16, 18, 19, 20, 21, 22, 24, 26, 27, 28, 29, 30]
        ∧ (kept 8).length = 28
        ∧ ∀ k, 1 ≤ k → k ≤ 8 → (kept k).length + (gated k).length = 28 ∧ 0 ∈ kept k

/-- An evaluation takes the keep factor of the first enabled rule whose source has reached its threshold, QUEUE being
the fill of the frame queue and RATE the last completed window, and 8 when there is none; it lies in 1 to 8 when those
of the rules do; nothing else changes (R60, R61, R62). -/
def Obligations.GovernorTakesFirstRuleThatHolds : Prop :=
  ∀ (cfg : Startup) (s : State),
    let holds (r : GovernorRule) : Prop :=
      r.enabled = true ∧ r.threshold ≤ (if r.source = 0 then s.fe.queue.length else s.du.rateLast)
    ∃ k, governorEvaluate cfg s = { s with keep := k }
      ∧ ((∀ r ∈ cfg.rules, ¬holds r) → k = 8)
      ∧ ((∀ r ∈ cfg.rules, 1 ≤ r.keep ∧ r.keep ≤ 8) → 1 ≤ k ∧ k ≤ 8)
      ∧ ∀ before r after, cfg.rules = before ++ r :: after → (∀ b ∈ before, ¬holds b) → holds r → k = r.keep

/-! ### Wear and stagger -/

/-- WEAR_COMPLETE: the SIGHTINGs of the bank's lanes with hits join the queue in order of lane slot as long as it has
room, and clear the origins they carry in the entries (R111; which entry is log 11); any further one is discarded with
REPORT_LOST and its origin kept (R180); an IDLE Link Controller is CONTENDING in the same step (log 12); the bank
becomes FREE, and a WAITING bank with a hit becomes COMPUTING, or else the Wear Unit is idle (R137, R138, R139; a
WAITING bank without a hit becomes FREE in the same step, log 18). The lane results are computed at this command, which
is the model's choice (log 21). What a SIGHTING carries of its block, its lane, its accumulation and its lane result,
each flag with its condition, the means rounded as R167 says, and STAGGER_LIMIT as R168 says (R139, R155, R167, R168).
-/
def Obligations.WearCompletionReportsLanes : Prop :=
  (∀ (cfg : Startup) (k : Nat) (b : Block) (cls : WireClass) (s : State), Quiet cfg s → s.ss.computing = some k →
    s.ss.banks[k]? = some (.computing b) → cfg.classes[b.cls]? = some cls →
    ∃ t, exec .wearComplete s = .next t
      ∧ t = { reported cfg b (laneResult cfg cls) b.lanes s with
          ss := { s.ss with banks := t.ss.banks, computing := t.ss.computing } }
      ∧ ((∀ w, Bank.waiting w ∉ s.ss.banks) →
          t.ss.computing = none ∧ t.ss.banks = s.ss.banks.set k .free)
      ∧ ∀ j w, s.ss.banks[j]? = some (.waiting w) → (∀ i v, s.ss.banks[i]? = some (.waiting v) → i = j) →
          ((∃ l ∈ w.lanes, l.hitFrames ≠ 0) →
            t.ss.computing = some j ∧ t.ss.banks = (s.ss.banks.set k .free).set j (.computing w))
          ∧ ((∀ l ∈ w.lanes, l.hitFrames = 0) →
            t.ss.computing = none ∧ t.ss.banks = (s.ss.banks.set k .free).set j .free))
  ∧ ∀ (cfg : Startup) (b : Block) (c : Closing) (r : LaneResult) (l : Lane), b.closing = some c → l.hitFrames ≠ 0 →
      let g := sightingOf cfg b r l
      let holds : SightFlag → Prop
        | .wearPresent => r.wear ≠ none
        | .originPresent => l.origin ≠ none
        | .crossing => l.crossing = true
        | .noFace => r.noFace = true
        | .fewRows => r.fewRows = true
        | .widthSaturated => r.widthSaturated = true
        | .windowEdge => r.windowEdge = true
        | .bankStarved => b.starved = true
        | .belowLimit => r.belowLimit = true
        | .staggerLimit => cfg.alertStagger = true
            ∧ ∃ cls, cfg.classes[b.cls]? = some cls ∧ cls.staggerLimit < g.staggerMean.natAbs
        | .attHeld => l.acc.attHeld = true
        | .uncorrected => l.acc.uncorrected = true
        | .ambient => b.ambient = true
        | .decimated => b.decimated = true
        | .ended => l.ended = true
        | .handed => l.handed = true
        | .yieldedDup => l.yieldedDup = true
        | .reclaimed => l.reclaimed = true
        | .clamped => l.acc.clamped = true
        | .shortBlock => b.short = true
      g.tag = l.tag ∧ g.origin = l.origin ∧ g.hitFrames = l.hitFrames ∧ g.rows = l.strips.length
        ∧ g.missing = l.skipped + l.absent
        ∧ g.blockSeq = b.seq ∧ g.run = b.run ∧ g.cls = b.cls ∧ g.openFrame = b.openFrame
        ∧ g.openDistance = b.openDistance ∧ g.closeDistance = c.distance
        ∧ g.frames = (c.lastFrame - b.openFrame).toNat + 1
        ∧ RoundsHalfAway g.staggerMean l.acc.staggerSum l.hitFrames
        ∧ RoundsHalfAway g.lateralMean l.acc.lateralSum l.hitFrames
        ∧ (2 * l.hitFrames * g.heightMean ≤ 2 * l.acc.heightSum + l.hitFrames
            ∧ 2 * l.acc.heightSum + l.hitFrames < 2 * l.hitFrames * (g.heightMean + 1))
        ∧ (∀ x, l.acc.staggerMin = some x → g.staggerMin = x) ∧ (∀ x, l.acc.staggerMax = some x → g.staggerMax = x)
        ∧ g.wear = r.wear
        ∧ (∀ f : SightFlag, f.isSetIn g.flags = true ↔ holds f) ∧ g.flags.toNat < 1048576

/-- The worn width is w64 · 125 / 32 and the half width w64 · 125 / 64, each rounded half up, for every w64 from 64 to
4,096; they lie in 250 to 16,000 and 125 to 8,000 µm, and the half width differs from half of the width by at most one
half. Every reported width is the worn width of such a w64, so it is at most 16,000 µm (R149, R150). -/
def Obligations.WornAndHalfWidth : Prop :=
  (∀ w64 : Nat, 64 ≤ w64 → w64 ≤ 4096 →
    (8000 ≤ w64 * 125 ∧ w64 * 125 ≤ 512000)
      ∧ (2 * (w64 * 125) < 32 * (2 * wornWidth w64 + 1) ∧ 32 * (2 * wornWidth w64 - 1) ≤ 2 * (w64 * 125))
      ∧ (250 ≤ wornWidth w64 ∧ wornWidth w64 ≤ 16000)
      ∧ (2 * (w64 * 125) < 64 * (2 * halfWidth w64 + 1) ∧ 64 * (2 * halfWidth w64 - 1) ≤ 2 * (w64 * 125))
      ∧ (125 ≤ halfWidth w64 ∧ halfWidth w64 ≤ 8000)
      ∧ (2 * halfWidth w64 ≤ wornWidth w64 + 1 ∧ wornWidth w64 ≤ 2 * halfWidth w64 + 1))
    ∧ (wornWidth 2128 = 8313 ∧ halfWidth 2128 = 4156)
    ∧ ∀ (cfg : Startup) (cls : WireClass) (lane : Lane) (w : WearPart), (laneResult cfg cls lane).wear = some w →
        ∃ w64, 64 ≤ w64 ∧ w64 ≤ 4096 ∧ w.width = wornWidth w64 ∧ w.width ≤ 16000

/-- isqrt is the floor of the square root (section 0.8). The worn depth is r less the floor of the root of r² - q² while
the half width q is below r, from 1 to r - 1, and r otherwise. A lane result with wear has the height Hnom less the
worn depth of its half width, and WIDTH_SATURATED exactly when q is r or more; one without wear never has the flag
(R151, R152). -/
def Obligations.WornDepthIsSegmentHeight : Prop :=
  (∀ n : Nat, isqrt n * isqrt n ≤ n ∧ n < (isqrt n + 1) * (isqrt n + 1))
    ∧ (∀ r q : Nat, 3000 ≤ r → r ≤ 9000 → 125 ≤ q →
      (q < r → wornDepth r q = r - isqrt (r * r - q * q) ∧ (1 ≤ r * r - q * q ∧ r * r - q * q ≤ 81000000)
        ∧ 1 ≤ wornDepth r q ∧ wornDepth r q ≤ r - 1)
      ∧ (r ≤ q → wornDepth r q = r))
    ∧ ∀ (cfg : Startup) (cls : WireClass) (lane : Lane),
        (∀ w, (laneResult cfg cls lane).wear = some w →
          ∃ w64, 64 ≤ w64 ∧ w64 ≤ 4096 ∧ w.width = wornWidth w64
            ∧ w.height = cls.nominal - wornDepth cls.radius (halfWidth w64)
            ∧ ((laneResult cfg cls lane).widthSaturated = true ↔ cls.radius ≤ halfWidth w64))
        ∧ ((laneResult cfg cls lane).wear = none → (laneResult cfg cls lane).widthSaturated = false)

/-- Every reported wear lies in range: width 250 to 16,000 µm, remaining height from Hnom - r to Hnom - 1, quality
132 to 255. A column, from 0 here for -32 to 63 for +31, is a face column when more than half of the rows hold T_face or
more in it (R145); the face run is the maximal run of face columns that holds the first face column of 0, -1, +1, -2,
+2, -3, +3, -4, +4 (R146). FEW_ROWS is set below 8 rows, else NO_FACE when none of those is a face column, else
WINDOW_EDGE when the face run reaches column -32 or +31 (R144, R147); there is wear when none of these is set and the
lane does not carry CROSSING, with the width of the run and its two edge columns (R148), its worn and half width, its
remaining height (R149 to R152), its quality (R154), WIDTH_SATURATED when the half width reaches r (R151), and
BELOW_LIMIT when the alert is enabled and the height is below the wear limit (R153). -/
def Obligations.LaneResultsInRange : Prop :=
  ∀ (cfg : Startup) (cls : WireClass) (lane : Lane), 3000 ≤ cls.radius → cls.radius ≤ 9000 →
    cls.radius ≤ cls.nominal → lane.strips.length ≤ 28 →
    let n := lane.strips.length
    let v (c : Nat) : Nat := lane.strips.countP fun row => decide (cfg.tFace ≤ row.getD c 0)
    let face (c : Nat) : Prop := c < 64 ∧ n < 2 * v c
    let isFaceRun (a b : Nat) : Prop :=
      (∀ c, a ≤ c → c ≤ b → face c) ∧ (a = 0 ∨ ¬face (a - 1)) ∧ ¬face (b + 1)
        ∧ ∃ before k after, [32, 31, 33, 30, 34, 29, 35, 28, 36] = before ++ k :: after
          ∧ (∀ c ∈ before, ¬face c) ∧ a ≤ k ∧ k ≤ b
    let r := laneResult cfg cls lane
    (∀ w, r.wear = some w →
        (250 ≤ w.width ∧ w.width ≤ 16000)
          ∧ (cls.nominal - cls.radius ≤ w.height ∧ w.height ≤ cls.nominal - 1)
          ∧ (132 ≤ w.quality ∧ w.quality ≤ 255)
          ∧ 8 ≤ lane.strips.length ∧ lane.crossing = false
          ∧ r.fewRows = false ∧ r.noFace = false ∧ r.windowEdge = false
          ∧ (r.belowLimit = true ↔ cfg.alertBelowLimit = true ∧ w.height < cls.wearLimit)
          ∧ (r.widthSaturated = true → w.height = cls.nominal - cls.radius))
      ∧ (r.wear = none → r.widthSaturated = false ∧ r.belowLimit = false)
      ∧ (r.fewRows = true ↔ lane.strips.length < 8)
      ∧ (r.noFace = true ↔ 8 ≤ n ∧ ∀ c, 28 ≤ c → c ≤ 36 → ¬face c)
      ∧ (r.windowEdge = true ↔ 8 ≤ n ∧ ∃ a b, isFaceRun a b ∧ (a = 0 ∨ b = 63))
      ∧ (r.wear ≠ none ↔ 8 ≤ n ∧ lane.crossing = false ∧ ∃ a b, isFaceRun a b ∧ 0 < a ∧ b < 63)
      ∧ (∀ a b, 8 ≤ n → lane.crossing = false → isFaceRun a b → 0 < a → b < 63 →
          let w64 := 64 * (b - a + 1) + 128 * v (a - 1) / n + 128 * v (b + 1) / n
          r.wear = some
              { width := wornWidth w64, height := cls.nominal - wornDepth cls.radius (halfWidth w64)
                quality := 255 * ((List.range (b - a + 1)).map fun k => v (a + k)).sum / ((b - a + 1) * n) }
            ∧ (r.widthSaturated = true ↔ cls.radius ≤ halfWidth w64))
      ∧ ¬(r.fewRows = true ∧ r.noFace = true) ∧ ¬(r.fewRows = true ∧ r.windowEdge = true)
      ∧ ¬(r.noFace = true ∧ r.windowEdge = true)

/-- A hit accumulated: the car-frame lateral of its centre, its quotient rounded half away from zero (R156), the stagger
with the held sample while FRESH or HELD, its quotient rounded likewise (R161) or without it while LOST (R162), clamped
to a metre either way (R163), added to sums, minimum, maximum and flags (R165). -/
def Obligations.HitAccumulates : Prop :=
  ∀ (cfg : Startup) (su : StaggerUnit) (c : Candidate) (a : Accumulation), c.centre ≤ 32767 →
    ∃ lateral stagger raw : Int, accumulate cfg su c a =
        { staggerSum := a.staggerSum + stagger, lateralSum := a.lateralSum + lateral
          heightSum := a.heightSum + c.height
          staggerMin := some (match a.staggerMin with | none => stagger | some m => min m stagger)
          staggerMax := some (match a.staggerMax with | none => stagger | some m => max m stagger)
          attHeld := a.attHeld || decide (su.state = .held)
          uncorrected := a.uncorrected || decide (su.state = .lost)
          clamped := a.clamped || decide (raw < -1000000 ∨ 1000000 < raw) }
      ∧ stagger = max (-1000000) (min 1000000 raw)
      ∧ (-256000 ≤ lateral - cfg.mountOffset ∧ lateral - cfg.mountOffset ≤ 255984)
      ∧ RoundsHalfAway (lateral - cfg.mountOffset) (((c.centre : Int) - 16384) * 125) 8
      ∧ (∀ i : Nat, c.centre = 16 * i → lateral = cfg.mountOffset + ((i : Int) - 1024) * 250)
      ∧ (su.state = .lost → raw = lateral)
      ∧ ∀ h, su.sample = some h → su.state ≠ .lost →
          RoundsHalfAway (raw - lateral - h.lateral) (((c.height : Int) + cfg.refHeight) * h.roll) 1000

/-! ### Telegrams dispatched -/

/-- HEADSTATE_TELEGRAM writes the sender's record: ABSENT when CONFIG_BAD is carried and PRESENT otherwise, with its
mount offset and announced slot and age 0; nothing else changes, and the buffer becomes FREE (R100, R177, R178). -/
def Obligations.HeadstateWritesRecord : Prop :=
  ∀ (cfg : Startup) (x : RxTelegram) (rest : List RxTelegram) (k : Nat) (r : Neighbour) (s : State), Quiet cfg s →
    s.lc.rxBuffers = x :: rest → x.ident.toNat = 5 * 16 + (k + 1) → k < 8 → k + 1 ≠ s.src.station →
    (x.body.length = 23 ∨ x.body.length = 32) → s.nl[k]? = some r →
    exec .headstateTelegram s =
      .next { s with
        lc := { s.lc with rxBuffers := rest }
        nl := s.nl.set k { r with
          state := if (x.body.getD 22 0).getLsbD 0 then .absent else .present
          mountOffset := some (intOf [x.body.getD 0 0, x.body.getD 1 0, x.body.getD 2 0])
          slot := some ((x.body.getD 3 0).toNat % 4)
          age := 0 } }

/-- ADOPTION in place: the nearest entry within 12,000 µm takes the sender and its tag as origin; a TENTATIVE one
becomes OWNED with hits 3 and the clamped rate, a WATCHED one OWNED, a YIELDED one OWNED with its yield age, yield
target and reclaim mark cleared, and each of these is offered a lane; an OWNED or COASTING one keeps everything else,
and its lane takes the origin if it holds none. Nothing else changes (R109, R113, R84, R129). -/
def Obligations.AdoptionInPlace : Prop :=
  ∀ (cfg : Startup) (x : RxTelegram) (rest : List RxTelegram) (k i : Nat) (e : Entry) (s : State), Quiet cfg s →
    s.lc.rxBuffers = x :: rest → x.ident.toNat = 3 * 16 + (k + 1) → k < 8 → k + 1 ≠ s.src.station →
    x.body.length = 11 → (x.body.getD 0 0).toNat = s.src.station → s.tt.entry i = some e →
    let at_ := intOf [x.body.getD 2 0, x.body.getD 3 0, x.body.getD 4 0]
    let rate := intOf [x.body.getD 5 0, x.body.getD 6 0]
    let origin : Origin := ⟨k + 1, x.body.getD 1 0⟩
    let freed : State := { s with lc := { s.lc with rxBuffers := rest } }
    (e.x - at_).natAbs ≤ 12000 →
    (∀ j d, s.tt.entry j = some d →
      (e.x - at_).natAbs < (d.x - at_).natAbs ∨ (e.x - at_).natAbs = (d.x - at_).natAbs ∧ i ≤ j) →
    ∃ t, exec .adoption s = .next t
      ∧ (e.state = .tentative ∨ e.state = .watched ∨ e.state = .yielded →
          Offered i
            { e with
              origin := some origin, state := .owned
              hits := if e.state = .tentative then 3 else e.hits
              v := if e.state = .tentative then max (-4000) (min 4000 rate) else e.v
              yieldAge := if e.state = .yielded then 0 else e.yieldAge
              yieldTarget := if e.state = .yielded then none else e.yieldTarget
              reclaimMark := if e.state = .yielded then false else e.reclaimMark }
            s.du.frameIndex freed t)
      ∧ (e.state = .owned ∨ e.state = .coasting →
          t = { freed with
            tt := { s.tt with entries := s.tt.entries.set i (some { e with origin := some origin }) }
            ss := match e.lane with
              | none => s.ss
              | some slot => { s.ss with openBlock := s.ss.openBlock.map fun b =>
                  { b with lanes := b.lanes.map fun l =>
                    if l.slot = slot ∧ l.origin = none then { l with origin := some origin } else l } } })

/-- ADOPTION as a new entry: with no entry within 12,000 µm, an OWNED entry with the telegram's clamped position and
rate, its height, the origin, hits 3, the next free tag and the next creation sequence is made in the lowest free
position, or in a full table in that of a victim that is freed, and is offered a lane; with no victim the table is left
alone and TABLE_SATURATED is raised. Nothing else changes (R110, R91, R92, R93, R84). The next free tag is the first
from the next-tag counter up that is not in use (R91). -/
def Obligations.AdoptionAsNewEntry : Prop :=
  (∀ (cfg : Startup) (x : RxTelegram) (rest : List RxTelegram) (k : Nat) (s : State), Quiet cfg s →
    s.lc.rxBuffers = x :: rest → x.ident.toNat = 3 * 16 + (k + 1) → k < 8 → k + 1 ≠ s.src.station →
    x.body.length = 11 → (x.body.getD 0 0).toNat = s.src.station →
    let at_ := intOf [x.body.getD 2 0, x.body.getD 3 0, x.body.getD 4 0]
    let rate := intOf [x.body.getD 5 0, x.body.getD 6 0]
    let freed : State := { s with lc := { s.lc with rxBuffers := rest } }
    let counted (w : State) : State :=
      { w with tt := { w.tt with nextTag := nextFreeTag w + 1, creationSeq := w.tt.creationSeq + 1 } }
    let adopted (w : State) : Entry :=
      { state := .owned, tag := nextFreeTag w, seq := w.tt.creationSeq + 1
        x := max (-8000000) (min 8000000 at_), v := max (-4000) (min 4000 rate), hits := 3, misses := 0
        height := (x.body.getD 7 0).toNat * 256 + (x.body.getD 8 0).toNat
        origin := some ⟨k + 1, x.body.getD 1 0⟩, yieldAge := 0, sharedStreak := 0, partner := none
        lane := none, yieldTarget := none, reclaimMark := false }
    (∀ j d, s.tt.entry j = some d → 12000 < (d.x - at_).natAbs) →
    (∀ i, i < s.tt.entries.length → s.tt.entry i = none → (∀ j, j < i → s.tt.entry j ≠ none) →
      ∃ t, exec .adoption s = .next t ∧ Offered i (adopted freed) s.du.frameIndex (counted freed) t)
    ∧ ((∀ j, j < s.tt.entries.length → s.tt.entry j ≠ none) →
        (∃ i e w t, IsVictim s.tt [] i e ∧ Freed i e freed w ∧ exec .adoption s = .next t
          ∧ Offered i (adopted w) s.du.frameIndex (counted w) t)
        ∨ (∀ j d, s.tt.entry j = some d → d.state = .owned ∨ d.state = .yielded)
          ∧ exec .adoption s = .next (freed.raise .tableSaturated)))
  ∧ ∀ s : State, (∃ t, ¬s.UsesTag t) → s.FirstFreeTag (nextFreeTag s)

/-- SIGHTING_TELEGRAM whose origin names this head and the tag of a YIELDED entry whose target is the sender frees that
entry: its partners lose it, and the TAKING lanes of its tag stop with ENDED, in the open block and in closed blocks not
yet settled; one whose origin names this head and matches no such entry leaves the table alone (R112, R85, R136). -/
def Obligations.SightingResolvesYield : Prop :=
  ∀ (cfg : Startup) (x : RxTelegram) (rest : List RxTelegram) (k : Nat) (o : Origin) (s : State), Quiet cfg s →
    s.lc.rxBuffers = x :: rest → x.ident.toNat = 4 * 16 + (k + 1) → k < 8 → k + 1 ≠ s.src.station →
    lengthAccepted .sighting x.body = true → sightingOriginOf x.body = some o → o.station = s.src.station →
    (∀ i e, s.tt.entry i = some e → e.state = .yielded → e.tag = o.tag → e.yieldTarget = some (k + 1) →
      (∀ j d, s.tt.entry j = some d → d.tag = o.tag → j = i) →
      ∃ t, exec .sightingTelegram s = .next t ∧ Freed i e { s with lc := { s.lc with rxBuffers := rest } } t)
    ∧ ((∀ i e, s.tt.entry i = some e → ¬(e.state = .yielded ∧ e.tag = o.tag ∧ e.yieldTarget = some (k + 1))) →
      exec .sightingTelegram s = .next { s with lc := { s.lc with rxBuffers := rest } })

/-- SIGHTING_TELEGRAM of a wire that an overlapping neighbour also owns: the nearest OWNED or COASTING entry within
6,000 µm of the lateral mean, of two equally near the one with the lower entry index, becomes WATCHED without a lane,
and the TAKING lanes of its tag stop with YIELDED_DUP, in the open block and in closed blocks not yet settled, exactly
when this head is mounted farther from it, or equally far with the higher station number; nothing else changes (R120,
R121, R136). -/
def Obligations.DuplicateOwnerGivesWay : Prop :=
  ∀ (cfg : Startup) (x : RxTelegram) (rest : List RxTelegram) (k i : Nat) (e : Entry) (m : Int) (s : State),
    Quiet cfg s → s.lc.rxBuffers = x :: rest → x.ident.toNat = 4 * 16 + (k + 1) → k < 8 →
    k + 1 ≠ s.src.station → lengthAccepted .sighting x.body = true →
    (∀ o, sightingOriginOf x.body = some o → o.station ≠ s.src.station) →
    (s.neighbour (k + 1)).state = .present → (s.neighbour (k + 1)).mountOffset = some m →
    (m - cfg.mountOffset).natAbs < 512000 →
    let wire := sightingLateralOf x.body
    s.tt.entry i = some e → (e.state = .owned ∨ e.state = .coasting) → (e.x - wire).natAbs ≤ 6000 →
    (∀ j d, s.tt.entry j = some d → d.state = .owned ∨ d.state = .coasting →
      (e.x - wire).natAbs < (d.x - wire).natAbs ∨ (e.x - wire).natAbs = (d.x - wire).natAbs ∧ i ≤ j) →
    (((m - wire).natAbs < (cfg.mountOffset - wire).natAbs
        ∨ (m - wire).natAbs = (cfg.mountOffset - wire).natAbs ∧ k + 1 < s.src.station) →
      exec .sightingTelegram s =
        .next { s with
          lc := { s.lc with rxBuffers := rest }
          tt := { s.tt with entries := s.tt.entries.set i (some { e with state := .watched, lane := none }) }
          ss := s.ss.stopping e.tag fun l => { l with yieldedDup := true } })
    ∧ (((cfg.mountOffset - wire).natAbs < (m - wire).natAbs
        ∨ (cfg.mountOffset - wire).natAbs = (m - wire).natAbs ∧ s.src.station < k + 1) →
      exec .sightingTelegram s = .next { s with lc := { s.lc with rxBuffers := rest } })

/-- RUN_TELEGRAM with a run state of 0 to 2 and a class of 0 to 3 sets the run state, the run number and the pending
class, and closes an open block at the frame of the latest trigger when it leaves RUN or brings another run number or
class, after which no entry has a lane (R130, R132, R137); any other is without effect (R202, R203). That a settled bank
none of whose lanes has a hit is FREE in the same step is DEDUCED (log 18), and that a starved block counts the row in
process as owed, associated or not, is the model's choice (log 30); for its reports see logs 11 and 12 (R140, R180). -/
def Obligations.RunTelegramSetsRun : Prop :=
  ∀ (cfg : Startup) (x : RxTelegram) (rest : List RxTelegram) (s : State), Quiet cfg s →
    s.lc.rxBuffers = x :: rest → x.ident = 0x10 → x.body.length = 4 →
    let run := BitVec.ofNat 16 ((x.body.getD 0 0).toNat * 256 + (x.body.getD 1 0).toNat)
    let code := (x.body.getD 2 0).toNat
    let cls := (x.body.getD 3 0).toNat
    let st : RunState := if code = 0 then .idle else if code = 1 then .run else .pause
    let freed := { s.lc with rxBuffers := rest }
    let taken := { s.src with runState := st, runNumber := run, pendingClass := cls }
    (2 < code ∨ 3 < cls → exec .runTelegram s = .next { s with lc := freed })
    ∧ (code ≤ 2 → cls ≤ 3 →
        (∀ b, s.ss.openBlock = some b → code = 1 ∧ run = b.run ∧ cls = s.src.currentClass) →
        exec .runTelegram s = .next { s with lc := freed, src := taken })
    ∧ (code ≤ 2 → cls ≤ 3 →
        ∀ b, s.ss.openBlock = some b → (code ≠ 1 ∨ run ≠ b.run ∨ cls ≠ s.src.currentClass) →
        ∃ t, exec .runTelegram s = .next t
          ∧ t = { s with
              src := taken
              tt := { s.tt with entries := t.tt.entries }
              ss := { s.ss with
                openBlock := none, settling := t.ss.settling, banks := t.ss.banks, computing := t.ss.computing }
              lc := { t.lc with rxBuffers := rest } }
          ∧ ClosesTo cfg s.du.frameIndex s.du.distance b { s with lc := freed } t)

/-- ATTITUDE_TELEGRAM: the clamped roll and lateral displacement become the held sample, the age 0 and the state FRESH
(R158). That one which was received in LOADING and is dispatched in OPERATING is taken is DEDUCED (log 31). -/
def Obligations.AttitudeTelegramIsHeld : Prop :=
  ∀ (cfg : Startup) (x : RxTelegram) (rest : List RxTelegram) (s : State), Quiet cfg s →
    s.lc.rxBuffers = x :: rest → x.ident = 0x20 → x.body.length = 8 →
    exec .attitudeTelegram s =
      .next { s with
        lc := { s.lc with rxBuffers := rest }
        su :=
          { sample := some
              { roll := max (-50000) (min 50000 (intOf [x.body.getD 2 0, x.body.getD 3 0, x.body.getD 4 0]))
                lateral := max (-200000) (min 200000 (intOf [x.body.getD 5 0, x.body.getD 6 0, x.body.getD 7 0])) }
            age := 0, state := .fresh } }

/-- TELEGRAM_DISCARD frees the oldest buffer: without a flag for an unknown kind, with LINK_ERROR for a length its
kind does not accept, with DUPLICATE_STATION for a head's telegram with this head's number, without a flag for a
station its kind does not allow, and for anything in a part that is not OPERATING (R178, R122, R173). -/
def Obligations.DiscardedTelegrams : Prop :=
  ∀ (x : RxTelegram) (rest : List RxTelegram) (s : State), s.lc.rxBuffers = x :: rest → catchUp s = s →
    let code := x.ident.toNat / 16
    let station := x.ident.toNat % 16
    let freed (flags : Word16) : Host.Outcome State Fault Refusal :=
      .next { s with lc := { s.lc with rxBuffers := rest, sticky := s.lc.sticky ||| flags } }
    ((code = 0 ∨ 6 ≤ code) → exec .telegramDiscard s = freed 0)
    ∧ (code = 1 ∧ x.body.length ≠ 4 ∨ code = 2 ∧ x.body.length ≠ 8 ∨ code = 3 ∧ x.body.length ≠ 11
        ∨ code = 5 ∧ x.body.length ≠ 23 ∧ x.body.length ≠ 32
        ∨ code = 4 ∧ lengthAccepted .sighting x.body = false →
        exec .telegramDiscard s = freed StickyFlag.linkError.mask)
    ∧ (code = 3 ∧ x.body.length = 11 ∨ code = 4 ∧ lengthAccepted .sighting x.body = true
        ∨ code = 5 ∧ (x.body.length = 23 ∨ x.body.length = 32) →
        (station = s.src.station → exec .telegramDiscard s = freed StickyFlag.duplicateStation.mask)
        ∧ (station ≠ s.src.station → (station = 0 ∨ 9 ≤ station) → exec .telegramDiscard s = freed 0)
        ∧ (station ≠ s.src.station → s.src.part.isOperating = false → exec .telegramDiscard s = freed 0))
    ∧ (code = 1 ∧ x.body.length = 4 ∨ code = 2 ∧ x.body.length = 8 →
        (station ≠ 0 ∨ s.src.part.isOperating = false → exec .telegramDiscard s = freed 0))

/-! ### The line -/

/-- TRANSMIT_START drives the telegram at the head of the queue, start bit and all, when the LC contends and its receive
side is READY; ARBITRATION_LOST stops driving with the telegram kept; ARBITRATION_WON makes the LC SENDING (R171, R173,
R174). That the receive side's READY, and not a count of idle bits, is what TRANSMIT_START needs is the model's choice
(log 13), and so is that what is driven stands in `lineOut` (log 14). -/
def Obligations.ContentionFollowsTheLine : Prop :=
  ∀ s : State, s.src.part ≠ .held → catchUp s = s →
    (∀ x rest, s.lc.txQueue = x :: rest → s.lc.tx = .contending false → s.lc.rx = .ready →
      exec .transmitStart s =
        .next { s with lc := { s.lc with
          tx := .contending true, rx := .receiving
          lineOut := lineLevels (BitVec.ofNat 8 (16 * x.code + s.src.station)) x.body } })
    ∧ (s.lc.tx = .contending true →
        exec .arbitrationLost s = .next { s with lc := { s.lc with tx := .contending false, lineOut := [] } }
        ∧ exec .arbitrationWon s = .next { s with lc := { s.lc with tx := .sending } })

/-- TRANSMIT_COMPLETE and TRANSMIT_ERROR remove the telegram at the head of the queue and end the driving; an error
raises TX_ERROR and returns the flags of a HEADSTATE and its mark (R175, R176, R182); the LC is then IDLE with an empty
queue (R175). That with more queued it is CONTENDING with the next telegram in the same step is DEDUCED (log 12). A
HEADSTATE that waited for one in transmission is queued then (R181); that it takes what the lost one returned, and
TX_ERROR, is DEDUCED (log 24). -/
def Obligations.TransmissionEnds : Prop :=
  ∀ (x : Telegram) (rest : List Telegram) (s : State), catchUp s = s → s.lc.txQueue = x :: rest →
    let tx' : TxState := if rest = [] then .idle else .contending false
    let returned (h : Headstate) : Option PoleMark :=
      match h.mark, s.du.mark with
      | none, held => held
      | some m, none => some m
      | some _, some held => some { held with overwritten := true }
    let lost (h : Headstate) : Word16 := (s.lc.sticky ||| (h.sticky &&& ~~~1#16)) ||| StickyFlag.txError.mask
    (s.lc.headstateDue = false →
      (s.lc.tx = .sending →
        exec .transmitComplete s =
          .next { s with lc := { s.lc with txQueue := rest, tx := tx', lineOut := [], rx := .ready } })
      ∧ (s.lc.tx = .sending ∨ s.lc.tx = .contending true → x.isHeadstate = false →
        exec .transmitError s =
          .next { s with lc := { s.lc with
            txQueue := rest, tx := tx', lineOut := [], rx := .waitIdle
            sticky := s.lc.sticky ||| StickyFlag.txError.mask } })
      ∧ (s.lc.tx = .sending ∨ s.lc.tx = .contending true → ∀ h, x = .headstate h →
        exec .transmitError s =
          .next { s with
            du := { s.du with mark := returned h }
            lc := { s.lc with
              txQueue := rest, tx := tx', lineOut := [], rx := .waitIdle, sticky := lost h } }))
    ∧ (s.lc.headstateDue = true → s.lc.tx = .sending → (∀ y ∈ rest, y.isHeadstate = false) → rest.length < 12 →
      let queued (h : Headstate) (rx : RxState) : State :=
        { s with
          du := { s.du with mark := none }
          lc := { s.lc with
            txQueue := rest ++ [.headstate h], tx := .contending false, lineOut := [], headstateDue := false
            rx := rx, sticky := 0 } }
      exec .transmitComplete s = .next (queued (headstateOf s) .ready)
        ∧ ∀ h, x = .headstate h →
          exec .transmitError s =
            .next (queued
              (headstateOf { s with
                du := { s.du with mark := returned h }, lc := { s.lc with sticky := lost h } }) .waitIdle))

/-- LINE_IDLE makes the waiting receive side READY and START_BIT the ready one RECEIVING. A telegram is bad when its
length byte is above 48, a separator is recessive, an end field bit is dominant, or its two CRC bytes are not the CRC of
the identifier, the length byte and the body (R172, R176): TELEGRAM_RECEIVED then raises LINK_ERROR and waits for idle;
a good one is stored in a FREE buffer or dropped with RX_OVERRUN (R177). Bytes are read most significant bit first, 1
recessive (R171); that the line is recessive past the levels listed is DEDUCED (log 15). -/
def Obligations.ReceptionFollowsTheLine : Prop :=
  ∀ s : State, s.src.part ≠ .held → catchUp s = s →
    (s.lc.rx = .waitIdle → exec .lineIdle s = .next { s with lc := { s.lc with rx := .ready } })
    ∧ (s.lc.rx = .ready → exec .startBit s = .next { s with lc := { s.lc with rx := .receiving } })
    ∧ (s.lc.rx = .receiving → s.lc.tx ≠ .contending true → s.lc.tx ≠ .sending → ∀ levels : List Level,
      let level (i : Nat) : Level := levels.getD i .recessive
      let byte (k : Nat) : Byte := BitVec.ofNat 8 ([0, 1, 2, 3, 4, 5, 6, 7].foldl
        (fun x j => 2 * x + if level (9 * k + j) = .recessive then 1 else 0) 0)
      let n := (byte 1).toNat
      let good : Prop := n ≤ 48 ∧ (∀ k < n + 4, level (9 * k + 8) = .dominant)
        ∧ level (9 * (n + 4)) = .recessive ∧ level (9 * (n + 4) + 1) = .recessive
        ∧ 256 * (byte (n + 2)).toNat + (byte (n + 3)).toNat = (crc16 ((List.range (n + 2)).map byte)).toNat
      let x : RxTelegram := ⟨byte 0, (List.range n).map fun k => byte (k + 2)⟩
      (¬good →
        exec (.telegramReceived levels) s =
          .next { s with lc := { s.lc with
            rx := .waitIdle, sticky := s.lc.sticky ||| StickyFlag.linkError.mask } })
      ∧ (good →
          exec (.telegramReceived levels) s =
            .next { s with lc := { s.lc with
              rx := .ready
              rxBuffers := if s.lc.rxBuffers.length < 2 then s.lc.rxBuffers ++ [x] else s.lc.rxBuffers
              sticky := if s.lc.rxBuffers.length < 2 then s.lc.sticky
                else s.lc.sticky ||| StickyFlag.rxOverrun.mask } }))

/-- A telegram put on the line by its layout is received whole: the levels after the start bit give back the
identifier and the body, for every identifier and every body of 0 to 48 bytes (R171, R172, R176, R187). On the line it
is a dominant start bit, the identifier, the length byte, the body and the CRC high byte first, each byte most
significant bit first, 1 recessive, with a dominant separator, and ten recessive bits (R171). The CRC is the remainder,
by x^16 + x^12 + x^5 + 1 over the field of two elements, of the message bits times x^16 with the first 16 bits of the
dividend inverted, which is what a register that starts at all ones gives, not inverted at the end (R172); the start-up
block carries it, high byte first, over its first 126 bytes (R172, R196). -/
def Obligations.LineRoundTrip : Prop :=
  (∀ (ident : Byte) (body : List Byte), body.length ≤ 48 →
    let covered := ident :: BitVec.ofNat 8 body.length :: body
    let crc := crc16 covered
    (lineLevels ident body).head? = some .dominant
      ∧ (lineLevels ident body).length = 11 + 9 * (body.length + 4)
      ∧ receive (lineLevels ident body).tail = some ⟨ident, body⟩
      ∧ lineLevels ident body =
          .dominant :: ((covered ++ [crc.extractLsb' 8 8, crc.extractLsb' 0 8]).flatMap fun b =>
            ([7, 6, 5, 4, 3, 2, 1, 0].map fun k => if b.getLsbD k then .recessive else .dominant) ++ [.dominant])
            ++ List.replicate 10 .recessive)
  ∧ (∀ bytes : List Byte,
      let poly (bits : List Bool) : Polynomial (ZMod 2) :=
        bits.foldl (fun p b => p * Polynomial.X + if b then 1 else 0) 0
      ∃ q : Polynomial (ZMod 2),
        poly (bytes.flatMap fun b => [7, 6, 5, 4, 3, 2, 1, 0].map fun k => b.getLsbD k) * Polynomial.X ^ 16
            + poly (List.replicate 16 true) * Polynomial.X ^ (8 * bytes.length) =
          q * (Polynomial.X ^ 16 + Polynomial.X ^ 12 + Polynomial.X ^ 5 + 1)
            + poly ([15, 14, 13, 12, 11, 10, 9, 8, 7, 6, 5, 4, 3, 2, 1, 0].map fun k => (crc16 bytes).getLsbD k))
  ∧ ∀ block : List Byte, crcGood block = true ↔
      256 * (block.getD 126 0).toNat + (block.getD 127 0).toNat = (crc16 (block.take 126)).toNat

/-- The body that a head writes is the body that another head reads: a HANDOVER whole (R188), and of a SIGHTING and a
HEADSTATE what a head takes from them (R189, R190); each has a length that its kind accepts. -/
def Obligations.BodiesRoundTrip : Prop :=
  (∀ h : Handover, h.target < 256 → -8388608 ≤ h.x → h.x < 8388608 → -32768 ≤ h.v → h.v < 32768 →
      h.height < 65536 → handoverOf (handoverBody h) = h ∧ lengthAccepted .handover (handoverBody h) = true)
    ∧ (∀ h : Headstate, -8388608 ≤ h.mountOffset → h.mountOffset < 8388608 → h.slot ≤ 3 →
        headstateMountOf (headstateBody h) = h.mountOffset ∧ headstateSlotOf (headstateBody h) = h.slot
          ∧ headstateStickyOf (headstateBody h) = h.sticky
          ∧ lengthAccepted .headstate (headstateBody h) = true)
    ∧ ∀ g : Sighting, SightFlag.wearPresent.isSetIn g.flags = g.wear.isSome →
        SightFlag.originPresent.isSetIn g.flags = g.origin.isSome → -8388608 ≤ g.lateralMean →
        g.lateralMean < 8388608 → (∀ o, g.origin = some o → o.station < 256) →
        sightingLateralOf (sightingBody g) = g.lateralMean ∧ sightingOriginOf (sightingBody g) = g.origin
          ∧ sightingFlagsOf (sightingBody g) = g.flags ∧ lengthAccepted .sighting (sightingBody g) = true

/-! ### Invariants that every step keeps -/

/-- The capacities: at most 12 telegrams in the transmit queue, of which at most one is a HEADSTATE, two receive
buffers, 2 frames expected, 4 rows queued (R36, R41, R177, R179, R181); 8 positions, 8 records, 2 banks and at most 8
lanes bound in the open block (R69, R93, R99, R126, R129). Every step keeps them. That with them it keeps the LC IDLE
exactly when its queue is empty is DEDUCED (log 12). -/
def Obligations.StepKeepsCapacities : Prop :=
  ∀ s t : State, s.lc.Bounded → s.fe.Bounded → s.Sized → step s = .next t → t.lc.Bounded ∧ t.fe.Bounded ∧ t.Sized

/-- The keep factor stays in 1 to 8 and the Exposure Controller in its ranges, whatever start-up block is read; every
step keeps it (R60, R198, R13, R29, R34). -/
def Obligations.StepKeepsKeepAndSlotRanges : Prop :=
  ∀ s t : State, s.KeepInRange → s.SlotInRange → step s = .next t → t.KeepInRange ∧ t.SlotInRange

/-- LASER is never high on a dark frame, with EXPOSE low, or while the part is not OPERATING; every step keeps it (R10,
R13, R197). -/
def Obligations.StepKeepsLaserSafe : Prop :=
  ∀ s t : State, s.LaserSafe → step s = .next t → t.LaserSafe

/-- A lane never holds more than 28 strip rows, nor more than its hits, and none on a starved block, in the open block,
in the closed blocks not yet settled and in those of WAITING and COMPUTING banks; every step keeps it (R134, R140). -/
def Obligations.StepKeepsStripsBounded : Prop :=
  ∀ s t : State, s.StripsBounded → step s = .next t → t.StripsBounded

/-- Each block held settling and the open block that is not starved own a FILLING bank of their own, so at most two
blocks are ever held settling, and at most one bank is COMPUTING; every step keeps it (R126, R132, R137). With that
every step keeps that no two entries carry one tag (R91). -/
def Obligations.StepKeepsBankOwnership : Prop :=
  ∀ s t : State, s.BanksOwned → step s = .next t → t.BanksOwned ∧ (s.TagsOwned → t.TagsOwned)

/-- Every invariant above holds at reset. -/
def Obligations.ResetMeetsInvariants : Prop :=
  State.reset.lc.Bounded ∧ State.reset.fe.Bounded ∧ State.reset.Sized ∧ State.reset.KeepInRange
    ∧ State.reset.SlotInRange ∧ State.reset.LaserSafe ∧ State.reset.StripsBounded ∧ State.reset.BanksOwned
    ∧ State.reset.TagsOwned
end

