-- ==== Sys2Proof/Laws/State.lean ====
section
/-! SUPPORT. One lemma for each field and each setter of State. -/

namespace Sys2Proof.Machine

variable (s : State)

section Du
variable (u : DistanceUnit)
@[simp] theorem State.setDu_du : (s.setDu u).du = u := rfl
@[simp] theorem State.setDu_ec : (s.setDu u).ec = s.ec := rfl
@[simp] theorem State.setDu_fe : (s.setDu u).fe = s.fe := rfl
@[simp] theorem State.setDu_keep : (s.setDu u).keep = s.keep := rfl
@[simp] theorem State.setDu_tt : (s.setDu u).tt = s.tt := rfl
@[simp] theorem State.setDu_nl : (s.setDu u).nl = s.nl := rfl
@[simp] theorem State.setDu_ss : (s.setDu u).ss = s.ss := rfl
@[simp] theorem State.setDu_su : (s.setDu u).su = s.su := rfl
@[simp] theorem State.setDu_lc : (s.setDu u).lc = s.lc := rfl
@[simp] theorem State.setDu_src : (s.setDu u).src = s.src := rfl
@[simp] theorem State.setDu_pending : (s.setDu u).pending = s.pending := rfl
end Du

section Ec
variable (u : ExposureController)
@[simp] theorem State.setEc_du : (s.setEc u).du = s.du := rfl
@[simp] theorem State.setEc_ec : (s.setEc u).ec = u := rfl
@[simp] theorem State.setEc_fe : (s.setEc u).fe = s.fe := rfl
@[simp] theorem State.setEc_keep : (s.setEc u).keep = s.keep := rfl
@[simp] theorem State.setEc_tt : (s.setEc u).tt = s.tt := rfl
@[simp] theorem State.setEc_nl : (s.setEc u).nl = s.nl := rfl
@[simp] theorem State.setEc_ss : (s.setEc u).ss = s.ss := rfl
@[simp] theorem State.setEc_su : (s.setEc u).su = s.su := rfl
@[simp] theorem State.setEc_lc : (s.setEc u).lc = s.lc := rfl
@[simp] theorem State.setEc_src : (s.setEc u).src = s.src := rfl
@[simp] theorem State.setEc_pending : (s.setEc u).pending = s.pending := rfl
end Ec

section Fe
variable (u : FrontEnd)
@[simp] theorem State.setFe_du : (s.setFe u).du = s.du := rfl
@[simp] theorem State.setFe_ec : (s.setFe u).ec = s.ec := rfl
@[simp] theorem State.setFe_fe : (s.setFe u).fe = u := rfl
@[simp] theorem State.setFe_keep : (s.setFe u).keep = s.keep := rfl
@[simp] theorem State.setFe_tt : (s.setFe u).tt = s.tt := rfl
@[simp] theorem State.setFe_nl : (s.setFe u).nl = s.nl := rfl
@[simp] theorem State.setFe_ss : (s.setFe u).ss = s.ss := rfl
@[simp] theorem State.setFe_su : (s.setFe u).su = s.su := rfl
@[simp] theorem State.setFe_lc : (s.setFe u).lc = s.lc := rfl
@[simp] theorem State.setFe_src : (s.setFe u).src = s.src := rfl
@[simp] theorem State.setFe_pending : (s.setFe u).pending = s.pending := rfl
end Fe

section Keep
variable (u : Nat)
@[simp] theorem State.setKeep_du : (s.setKeep u).du = s.du := rfl
@[simp] theorem State.setKeep_ec : (s.setKeep u).ec = s.ec := rfl
@[simp] theorem State.setKeep_fe : (s.setKeep u).fe = s.fe := rfl
@[simp] theorem State.setKeep_keep : (s.setKeep u).keep = u := rfl
@[simp] theorem State.setKeep_tt : (s.setKeep u).tt = s.tt := rfl
@[simp] theorem State.setKeep_nl : (s.setKeep u).nl = s.nl := rfl
@[simp] theorem State.setKeep_ss : (s.setKeep u).ss = s.ss := rfl
@[simp] theorem State.setKeep_su : (s.setKeep u).su = s.su := rfl
@[simp] theorem State.setKeep_lc : (s.setKeep u).lc = s.lc := rfl
@[simp] theorem State.setKeep_src : (s.setKeep u).src = s.src := rfl
@[simp] theorem State.setKeep_pending : (s.setKeep u).pending = s.pending := rfl
end Keep

section Tt
variable (u : TrackTable)
@[simp] theorem State.setTt_du : (s.setTt u).du = s.du := rfl
@[simp] theorem State.setTt_ec : (s.setTt u).ec = s.ec := rfl
@[simp] theorem State.setTt_fe : (s.setTt u).fe = s.fe := rfl
@[simp] theorem State.setTt_keep : (s.setTt u).keep = s.keep := rfl
@[simp] theorem State.setTt_tt : (s.setTt u).tt = u := rfl
@[simp] theorem State.setTt_nl : (s.setTt u).nl = s.nl := rfl
@[simp] theorem State.setTt_ss : (s.setTt u).ss = s.ss := rfl
@[simp] theorem State.setTt_su : (s.setTt u).su = s.su := rfl
@[simp] theorem State.setTt_lc : (s.setTt u).lc = s.lc := rfl
@[simp] theorem State.setTt_src : (s.setTt u).src = s.src := rfl
@[simp] theorem State.setTt_pending : (s.setTt u).pending = s.pending := rfl
end Tt

section Nl
variable (u : List Neighbour)
@[simp] theorem State.setNl_du : (s.setNl u).du = s.du := rfl
@[simp] theorem State.setNl_ec : (s.setNl u).ec = s.ec := rfl
@[simp] theorem State.setNl_fe : (s.setNl u).fe = s.fe := rfl
@[simp] theorem State.setNl_keep : (s.setNl u).keep = s.keep := rfl
@[simp] theorem State.setNl_tt : (s.setNl u).tt = s.tt := rfl
@[simp] theorem State.setNl_nl : (s.setNl u).nl = u := rfl
@[simp] theorem State.setNl_ss : (s.setNl u).ss = s.ss := rfl
@[simp] theorem State.setNl_su : (s.setNl u).su = s.su := rfl
@[simp] theorem State.setNl_lc : (s.setNl u).lc = s.lc := rfl
@[simp] theorem State.setNl_src : (s.setNl u).src = s.src := rfl
@[simp] theorem State.setNl_pending : (s.setNl u).pending = s.pending := rfl
end Nl

section Ss
variable (u : StripStore)
@[simp] theorem State.setSs_du : (s.setSs u).du = s.du := rfl
@[simp] theorem State.setSs_ec : (s.setSs u).ec = s.ec := rfl
@[simp] theorem State.setSs_fe : (s.setSs u).fe = s.fe := rfl
@[simp] theorem State.setSs_keep : (s.setSs u).keep = s.keep := rfl
@[simp] theorem State.setSs_tt : (s.setSs u).tt = s.tt := rfl
@[simp] theorem State.setSs_nl : (s.setSs u).nl = s.nl := rfl
@[simp] theorem State.setSs_ss : (s.setSs u).ss = u := rfl
@[simp] theorem State.setSs_su : (s.setSs u).su = s.su := rfl
@[simp] theorem State.setSs_lc : (s.setSs u).lc = s.lc := rfl
@[simp] theorem State.setSs_src : (s.setSs u).src = s.src := rfl
@[simp] theorem State.setSs_pending : (s.setSs u).pending = s.pending := rfl
end Ss

section Su
variable (u : StaggerUnit)
@[simp] theorem State.setSu_du : (s.setSu u).du = s.du := rfl
@[simp] theorem State.setSu_ec : (s.setSu u).ec = s.ec := rfl
@[simp] theorem State.setSu_fe : (s.setSu u).fe = s.fe := rfl
@[simp] theorem State.setSu_keep : (s.setSu u).keep = s.keep := rfl
@[simp] theorem State.setSu_tt : (s.setSu u).tt = s.tt := rfl
@[simp] theorem State.setSu_nl : (s.setSu u).nl = s.nl := rfl
@[simp] theorem State.setSu_ss : (s.setSu u).ss = s.ss := rfl
@[simp] theorem State.setSu_su : (s.setSu u).su = u := rfl
@[simp] theorem State.setSu_lc : (s.setSu u).lc = s.lc := rfl
@[simp] theorem State.setSu_src : (s.setSu u).src = s.src := rfl
@[simp] theorem State.setSu_pending : (s.setSu u).pending = s.pending := rfl
end Su

section Lc
variable (u : LinkController)
@[simp] theorem State.setLc_du : (s.setLc u).du = s.du := rfl
@[simp] theorem State.setLc_ec : (s.setLc u).ec = s.ec := rfl
@[simp] theorem State.setLc_fe : (s.setLc u).fe = s.fe := rfl
@[simp] theorem State.setLc_keep : (s.setLc u).keep = s.keep := rfl
@[simp] theorem State.setLc_tt : (s.setLc u).tt = s.tt := rfl
@[simp] theorem State.setLc_nl : (s.setLc u).nl = s.nl := rfl
@[simp] theorem State.setLc_ss : (s.setLc u).ss = s.ss := rfl
@[simp] theorem State.setLc_su : (s.setLc u).su = s.su := rfl
@[simp] theorem State.setLc_lc : (s.setLc u).lc = u := rfl
@[simp] theorem State.setLc_src : (s.setLc u).src = s.src := rfl
@[simp] theorem State.setLc_pending : (s.setLc u).pending = s.pending := rfl
end Lc

section Src
variable (u : StartupControl)
@[simp] theorem State.setSrc_du : (s.setSrc u).du = s.du := rfl
@[simp] theorem State.setSrc_ec : (s.setSrc u).ec = s.ec := rfl
@[simp] theorem State.setSrc_fe : (s.setSrc u).fe = s.fe := rfl
@[simp] theorem State.setSrc_keep : (s.setSrc u).keep = s.keep := rfl
@[simp] theorem State.setSrc_tt : (s.setSrc u).tt = s.tt := rfl
@[simp] theorem State.setSrc_nl : (s.setSrc u).nl = s.nl := rfl
@[simp] theorem State.setSrc_ss : (s.setSrc u).ss = s.ss := rfl
@[simp] theorem State.setSrc_su : (s.setSrc u).su = s.su := rfl
@[simp] theorem State.setSrc_lc : (s.setSrc u).lc = s.lc := rfl
@[simp] theorem State.setSrc_src : (s.setSrc u).src = u := rfl
@[simp] theorem State.setSrc_pending : (s.setSrc u).pending = s.pending := rfl
end Src

section Pending
variable (u : List Instr)
@[simp] theorem State.setPending_du : (s.setPending u).du = s.du := rfl
@[simp] theorem State.setPending_ec : (s.setPending u).ec = s.ec := rfl
@[simp] theorem State.setPending_fe : (s.setPending u).fe = s.fe := rfl
@[simp] theorem State.setPending_keep : (s.setPending u).keep = s.keep := rfl
@[simp] theorem State.setPending_tt : (s.setPending u).tt = s.tt := rfl
@[simp] theorem State.setPending_nl : (s.setPending u).nl = s.nl := rfl
@[simp] theorem State.setPending_ss : (s.setPending u).ss = s.ss := rfl
@[simp] theorem State.setPending_su : (s.setPending u).su = s.su := rfl
@[simp] theorem State.setPending_lc : (s.setPending u).lc = s.lc := rfl
@[simp] theorem State.setPending_src : (s.setPending u).src = s.src := rfl
@[simp] theorem State.setPending_pending : (s.setPending u).pending = u := rfl
end Pending

end Sys2Proof.Machine
end

