-- ==== Sys2Proof/Laws/Frames.lean ====
section
/-! SUPPORT. What each shared operation leaves as it was, field by field of State. -/

namespace Sys2Proof.Machine

/-- A fold of steps that each keep a reading keeps the reading. -/
theorem foldl_keeps {α β γ : Type} (g : α → γ) (f : α → β → α) (h : ∀ a b, g (f a b) = g a) :
    ∀ (l : List β) (a : α), g (l.foldl f a) = g a
  | [], _ => rfl
  | b :: l, a => (foldl_keeps g f h l (f a b)).trans (h a b)

/-- Acting on a value that may be absent keeps what the action keeps. -/
theorem getD_map_keeps {α β γ : Type} (g : α → γ) (f : β → α) (a : α) (h : ∀ b, g (f b) = g a) :
    ∀ o : Option β, g ((o.map f).getD a) = g a
  | none => rfl
  | some b => h b

section
variable (s : State) (f : StickyFlag)
@[simp] theorem raise_du : (s.raise f).du = s.du := rfl
@[simp] theorem raise_ec : (s.raise f).ec = s.ec := rfl
@[simp] theorem raise_fe : (s.raise f).fe = s.fe := rfl
@[simp] theorem raise_keep : (s.raise f).keep = s.keep := rfl
@[simp] theorem raise_tt : (s.raise f).tt = s.tt := rfl
@[simp] theorem raise_nl : (s.raise f).nl = s.nl := rfl
@[simp] theorem raise_ss : (s.raise f).ss = s.ss := rfl
@[simp] theorem raise_su : (s.raise f).su = s.su := rfl
@[simp] theorem raise_src : (s.raise f).src = s.src := rfl
@[simp] theorem raise_pending : (s.raise f).pending = s.pending := rfl
end

section
variable (s : State) (c : Bool) (f : StickyFlag)
@[simp] theorem raiseIf_du : (s.raiseIf c f).du = s.du := by unfold State.raiseIf; split <;> rfl
@[simp] theorem raiseIf_ec : (s.raiseIf c f).ec = s.ec := by unfold State.raiseIf; split <;> rfl
@[simp] theorem raiseIf_fe : (s.raiseIf c f).fe = s.fe := by unfold State.raiseIf; split <;> rfl
@[simp] theorem raiseIf_keep : (s.raiseIf c f).keep = s.keep := by unfold State.raiseIf; split <;> rfl
@[simp] theorem raiseIf_tt : (s.raiseIf c f).tt = s.tt := by unfold State.raiseIf; split <;> rfl
@[simp] theorem raiseIf_nl : (s.raiseIf c f).nl = s.nl := by unfold State.raiseIf; split <;> rfl
@[simp] theorem raiseIf_ss : (s.raiseIf c f).ss = s.ss := by unfold State.raiseIf; split <;> rfl
@[simp] theorem raiseIf_su : (s.raiseIf c f).su = s.su := by unfold State.raiseIf; split <;> rfl
@[simp] theorem raiseIf_src : (s.raiseIf c f).src = s.src := by unfold State.raiseIf; split <;> rfl
@[simp] theorem raiseIf_pending : (s.raiseIf c f).pending = s.pending := by unfold State.raiseIf; split <;> rfl
end

section
variable (s : State) (i : Nat) (e : Option Entry)
@[simp] theorem setEntry_du : (s.setEntry i e).du = s.du := rfl
@[simp] theorem setEntry_ec : (s.setEntry i e).ec = s.ec := rfl
@[simp] theorem setEntry_fe : (s.setEntry i e).fe = s.fe := rfl
@[simp] theorem setEntry_keep : (s.setEntry i e).keep = s.keep := rfl
@[simp] theorem setEntry_nl : (s.setEntry i e).nl = s.nl := rfl
@[simp] theorem setEntry_ss : (s.setEntry i e).ss = s.ss := rfl
@[simp] theorem setEntry_su : (s.setEntry i e).su = s.su := rfl
@[simp] theorem setEntry_lc : (s.setEntry i e).lc = s.lc := rfl
@[simp] theorem setEntry_src : (s.setEntry i e).src = s.src := rfl
@[simp] theorem setEntry_pending : (s.setEntry i e).pending = s.pending := rfl
end

section
variable (s : State) (g : Entry → Entry)
@[simp] theorem mapEntries_du : (s.mapEntries g).du = s.du := rfl
@[simp] theorem mapEntries_ec : (s.mapEntries g).ec = s.ec := rfl
@[simp] theorem mapEntries_fe : (s.mapEntries g).fe = s.fe := rfl
@[simp] theorem mapEntries_keep : (s.mapEntries g).keep = s.keep := rfl
@[simp] theorem mapEntries_nl : (s.mapEntries g).nl = s.nl := rfl
@[simp] theorem mapEntries_ss : (s.mapEntries g).ss = s.ss := rfl
@[simp] theorem mapEntries_su : (s.mapEntries g).su = s.su := rfl
@[simp] theorem mapEntries_lc : (s.mapEntries g).lc = s.lc := rfl
@[simp] theorem mapEntries_src : (s.mapEntries g).src = s.src := rfl
@[simp] theorem mapEntries_pending : (s.mapEntries g).pending = s.pending := rfl
end

section
variable (s : State) (t : Nat) (r : Neighbour)
@[simp] theorem setNeighbour_du : (s.setNeighbour t r).du = s.du := by cases t <;> rfl
@[simp] theorem setNeighbour_ec : (s.setNeighbour t r).ec = s.ec := by cases t <;> rfl
@[simp] theorem setNeighbour_fe : (s.setNeighbour t r).fe = s.fe := by cases t <;> rfl
@[simp] theorem setNeighbour_keep : (s.setNeighbour t r).keep = s.keep := by cases t <;> rfl
@[simp] theorem setNeighbour_tt : (s.setNeighbour t r).tt = s.tt := by cases t <;> rfl
@[simp] theorem setNeighbour_ss : (s.setNeighbour t r).ss = s.ss := by cases t <;> rfl
@[simp] theorem setNeighbour_su : (s.setNeighbour t r).su = s.su := by cases t <;> rfl
@[simp] theorem setNeighbour_lc : (s.setNeighbour t r).lc = s.lc := by cases t <;> rfl
@[simp] theorem setNeighbour_src : (s.setNeighbour t r).src = s.src := by cases t <;> rfl
@[simp] theorem setNeighbour_pending : (s.setNeighbour t r).pending = s.pending := by cases t <;> rfl
end

section
variable (s : State) (cfg : Startup)
@[simp] theorem latchZone_du : (latchZone cfg s).du = s.du := rfl
@[simp] theorem latchZone_ec : (latchZone cfg s).ec = s.ec := rfl
@[simp] theorem latchZone_fe : (latchZone cfg s).fe = s.fe := rfl
@[simp] theorem latchZone_keep : (latchZone cfg s).keep = s.keep := rfl
@[simp] theorem latchZone_nl : (latchZone cfg s).nl = s.nl := rfl
@[simp] theorem latchZone_ss : (latchZone cfg s).ss = s.ss := rfl
@[simp] theorem latchZone_su : (latchZone cfg s).su = s.su := rfl
@[simp] theorem latchZone_lc : (latchZone cfg s).lc = s.lc := rfl
@[simp] theorem latchZone_src : (latchZone cfg s).src = s.src := rfl
@[simp] theorem latchZone_pending : (latchZone cfg s).pending = s.pending := rfl
end

section
variable (s : State) (cfg : Startup)
@[simp] theorem governorEvaluate_du : (governorEvaluate cfg s).du = s.du := rfl
@[simp] theorem governorEvaluate_ec : (governorEvaluate cfg s).ec = s.ec := rfl
@[simp] theorem governorEvaluate_fe : (governorEvaluate cfg s).fe = s.fe := rfl
@[simp] theorem governorEvaluate_tt : (governorEvaluate cfg s).tt = s.tt := rfl
@[simp] theorem governorEvaluate_nl : (governorEvaluate cfg s).nl = s.nl := rfl
@[simp] theorem governorEvaluate_ss : (governorEvaluate cfg s).ss = s.ss := rfl
@[simp] theorem governorEvaluate_su : (governorEvaluate cfg s).su = s.su := rfl
@[simp] theorem governorEvaluate_lc : (governorEvaluate cfg s).lc = s.lc := rfl
@[simp] theorem governorEvaluate_src : (governorEvaluate cfg s).src = s.src := rfl
@[simp] theorem governorEvaluate_pending : (governorEvaluate cfg s).pending = s.pending := rfl
end

section
variable (s : State) (t : Byte) (c : StopCause)
@[simp] theorem stopLanes_du : (stopLanes t c s).du = s.du := rfl
@[simp] theorem stopLanes_ec : (stopLanes t c s).ec = s.ec := rfl
@[simp] theorem stopLanes_fe : (stopLanes t c s).fe = s.fe := rfl
@[simp] theorem stopLanes_keep : (stopLanes t c s).keep = s.keep := rfl
@[simp] theorem stopLanes_tt : (stopLanes t c s).tt = s.tt := rfl
@[simp] theorem stopLanes_nl : (stopLanes t c s).nl = s.nl := rfl
@[simp] theorem stopLanes_su : (stopLanes t c s).su = s.su := rfl
@[simp] theorem stopLanes_lc : (stopLanes t c s).lc = s.lc := rfl
@[simp] theorem stopLanes_src : (stopLanes t c s).src = s.src := rfl
@[simp] theorem stopLanes_pending : (stopLanes t c s).pending = s.pending := rfl
end

section
variable (s : State) (i : Nat) (f : Word32)
@[simp] theorem offerLane_du : (offerLane i f s).du = s.du := by
  unfold offerLane; split <;> try split
  all_goals rfl
@[simp] theorem offerLane_ec : (offerLane i f s).ec = s.ec := by
  unfold offerLane; split <;> try split
  all_goals rfl
@[simp] theorem offerLane_fe : (offerLane i f s).fe = s.fe := by
  unfold offerLane; split <;> try split
  all_goals rfl
@[simp] theorem offerLane_keep : (offerLane i f s).keep = s.keep := by
  unfold offerLane; split <;> try split
  all_goals rfl
@[simp] theorem offerLane_nl : (offerLane i f s).nl = s.nl := by
  unfold offerLane; split <;> try split
  all_goals rfl
@[simp] theorem offerLane_su : (offerLane i f s).su = s.su := by
  unfold offerLane; split <;> try split
  all_goals rfl
@[simp] theorem offerLane_lc : (offerLane i f s).lc = s.lc := by
  unfold offerLane; split <;> try split
  all_goals rfl
@[simp] theorem offerLane_src : (offerLane i f s).src = s.src := by
  unfold offerLane; split <;> try split
  all_goals rfl
@[simp] theorem offerLane_pending : (offerLane i f s).pending = s.pending := by
  unfold offerLane; split <;> try split
  all_goals rfl
end

section
variable (s : State) (cfg : Startup) (row : RowInProcess) (t : Byte) (c : Candidate) (b : Bool)
@[simp] theorem handOnHit_du : (handOnHit cfg row t c b s).du = s.du := rfl
@[simp] theorem handOnHit_ec : (handOnHit cfg row t c b s).ec = s.ec := rfl
@[simp] theorem handOnHit_fe : (handOnHit cfg row t c b s).fe = s.fe := rfl
@[simp] theorem handOnHit_keep : (handOnHit cfg row t c b s).keep = s.keep := rfl
@[simp] theorem handOnHit_tt : (handOnHit cfg row t c b s).tt = s.tt := rfl
@[simp] theorem handOnHit_nl : (handOnHit cfg row t c b s).nl = s.nl := rfl
@[simp] theorem handOnHit_su : (handOnHit cfg row t c b s).su = s.su := rfl
@[simp] theorem handOnHit_lc : (handOnHit cfg row t c b s).lc = s.lc := rfl
@[simp] theorem handOnHit_src : (handOnHit cfg row t c b s).src = s.src := rfl
@[simp] theorem handOnHit_pending : (handOnHit cfg row t c b s).pending = s.pending := rfl
end

section
variable (s : State) (g : Sighting)
@[simp] theorem queueSighting_du : ((queueSighting g s).1).du = s.du := by unfold queueSighting; split <;> rfl
@[simp] theorem queueSighting_ec : ((queueSighting g s).1).ec = s.ec := by unfold queueSighting; split <;> rfl
@[simp] theorem queueSighting_fe : ((queueSighting g s).1).fe = s.fe := by unfold queueSighting; split <;> rfl
@[simp] theorem queueSighting_keep : ((queueSighting g s).1).keep = s.keep := by unfold queueSighting; split <;> rfl
@[simp] theorem queueSighting_tt : ((queueSighting g s).1).tt = s.tt := by unfold queueSighting; split <;> rfl
@[simp] theorem queueSighting_nl : ((queueSighting g s).1).nl = s.nl := by unfold queueSighting; split <;> rfl
@[simp] theorem queueSighting_ss : ((queueSighting g s).1).ss = s.ss := by unfold queueSighting; split <;> rfl
@[simp] theorem queueSighting_su : ((queueSighting g s).1).su = s.su := by unfold queueSighting; split <;> rfl
@[simp] theorem queueSighting_src : ((queueSighting g s).1).src = s.src := by unfold queueSighting; split <;> rfl
@[simp] theorem queueSighting_pending : ((queueSighting g s).1).pending = s.pending := by unfold queueSighting; split <;> rfl
end

section
variable (s : State) (t : Byte) (o : Origin)
@[simp] theorem clearOrigin_du : (clearOrigin t o s).du = s.du := rfl
@[simp] theorem clearOrigin_ec : (clearOrigin t o s).ec = s.ec := rfl
@[simp] theorem clearOrigin_fe : (clearOrigin t o s).fe = s.fe := rfl
@[simp] theorem clearOrigin_keep : (clearOrigin t o s).keep = s.keep := rfl
@[simp] theorem clearOrigin_nl : (clearOrigin t o s).nl = s.nl := rfl
@[simp] theorem clearOrigin_ss : (clearOrigin t o s).ss = s.ss := rfl
@[simp] theorem clearOrigin_su : (clearOrigin t o s).su = s.su := rfl
@[simp] theorem clearOrigin_lc : (clearOrigin t o s).lc = s.lc := rfl
@[simp] theorem clearOrigin_src : (clearOrigin t o s).src = s.src := rfl
@[simp] theorem clearOrigin_pending : (clearOrigin t o s).pending = s.pending := rfl
end

section
variable (s : State) (cfg : Startup) (b : Block) (r : Lane → LaneResult) (l : Lane)
@[simp] theorem reportLane_du : (reportLane cfg b r s l).du = s.du := by
  unfold reportLane; split
  · rfl
  · dsimp only; split <;> simp
@[simp] theorem reportLane_ec : (reportLane cfg b r s l).ec = s.ec := by
  unfold reportLane; split
  · rfl
  · dsimp only; split <;> simp
@[simp] theorem reportLane_fe : (reportLane cfg b r s l).fe = s.fe := by
  unfold reportLane; split
  · rfl
  · dsimp only; split <;> simp
@[simp] theorem reportLane_keep : (reportLane cfg b r s l).keep = s.keep := by
  unfold reportLane; split
  · rfl
  · dsimp only; split <;> simp
@[simp] theorem reportLane_nl : (reportLane cfg b r s l).nl = s.nl := by
  unfold reportLane; split
  · rfl
  · dsimp only; split <;> simp
@[simp] theorem reportLane_ss : (reportLane cfg b r s l).ss = s.ss := by
  unfold reportLane; split
  · rfl
  · dsimp only; split <;> simp
@[simp] theorem reportLane_su : (reportLane cfg b r s l).su = s.su := by
  unfold reportLane; split
  · rfl
  · dsimp only; split <;> simp
@[simp] theorem reportLane_src : (reportLane cfg b r s l).src = s.src := by
  unfold reportLane; split
  · rfl
  · dsimp only; split <;> simp
@[simp] theorem reportLane_pending : (reportLane cfg b r s l).pending = s.pending := by
  unfold reportLane; split
  · rfl
  · dsimp only; split <;> simp
end

section
variable (s : State) (cfg : Startup) (b : Block) (r : Lane → LaneResult)
@[simp] theorem reportBlock_du : (reportBlock cfg b r s).du = s.du := foldl_keeps (·.du) _ (fun s l => reportLane_du s cfg b r l) b.lanes s
@[simp] theorem reportBlock_ec : (reportBlock cfg b r s).ec = s.ec := foldl_keeps (·.ec) _ (fun s l => reportLane_ec s cfg b r l) b.lanes s
@[simp] theorem reportBlock_fe : (reportBlock cfg b r s).fe = s.fe := foldl_keeps (·.fe) _ (fun s l => reportLane_fe s cfg b r l) b.lanes s
@[simp] theorem reportBlock_keep : (reportBlock cfg b r s).keep = s.keep := foldl_keeps (·.keep) _ (fun s l => reportLane_keep s cfg b r l) b.lanes s
@[simp] theorem reportBlock_nl : (reportBlock cfg b r s).nl = s.nl := foldl_keeps (·.nl) _ (fun s l => reportLane_nl s cfg b r l) b.lanes s
@[simp] theorem reportBlock_ss : (reportBlock cfg b r s).ss = s.ss := foldl_keeps (·.ss) _ (fun s l => reportLane_ss s cfg b r l) b.lanes s
@[simp] theorem reportBlock_su : (reportBlock cfg b r s).su = s.su := foldl_keeps (·.su) _ (fun s l => reportLane_su s cfg b r l) b.lanes s
@[simp] theorem reportBlock_src : (reportBlock cfg b r s).src = s.src := foldl_keeps (·.src) _ (fun s l => reportLane_src s cfg b r l) b.lanes s
@[simp] theorem reportBlock_pending : (reportBlock cfg b r s).pending = s.pending := foldl_keeps (·.pending) _ (fun s l => reportLane_pending s cfg b r l) b.lanes s
end

section
variable (s : State) (k : Nat) (b : Block)
@[simp] theorem startCompute_du : (startCompute k b s).du = s.du := by unfold startCompute; split <;> rfl
@[simp] theorem startCompute_ec : (startCompute k b s).ec = s.ec := by unfold startCompute; split <;> rfl
@[simp] theorem startCompute_fe : (startCompute k b s).fe = s.fe := by unfold startCompute; split <;> rfl
@[simp] theorem startCompute_keep : (startCompute k b s).keep = s.keep := by unfold startCompute; split <;> rfl
@[simp] theorem startCompute_tt : (startCompute k b s).tt = s.tt := by unfold startCompute; split <;> rfl
@[simp] theorem startCompute_nl : (startCompute k b s).nl = s.nl := by unfold startCompute; split <;> rfl
@[simp] theorem startCompute_su : (startCompute k b s).su = s.su := by unfold startCompute; split <;> rfl
@[simp] theorem startCompute_lc : (startCompute k b s).lc = s.lc := by unfold startCompute; split <;> rfl
@[simp] theorem startCompute_src : (startCompute k b s).src = s.src := by unfold startCompute; split <;> rfl
@[simp] theorem startCompute_pending : (startCompute k b s).pending = s.pending := by unfold startCompute; split <;> rfl
end

section
variable (s : State) (cfg : Startup) (b : Block)
@[simp] theorem settleBlock_du : (settleBlock cfg s b).du = s.du := by
  unfold settleBlock; dsimp only; split <;> [skip; split <;> [skip; split]]
  all_goals simp
@[simp] theorem settleBlock_ec : (settleBlock cfg s b).ec = s.ec := by
  unfold settleBlock; dsimp only; split <;> [skip; split <;> [skip; split]]
  all_goals simp
@[simp] theorem settleBlock_fe : (settleBlock cfg s b).fe = s.fe := by
  unfold settleBlock; dsimp only; split <;> [skip; split <;> [skip; split]]
  all_goals simp
@[simp] theorem settleBlock_keep : (settleBlock cfg s b).keep = s.keep := by
  unfold settleBlock; dsimp only; split <;> [skip; split <;> [skip; split]]
  all_goals simp
@[simp] theorem settleBlock_nl : (settleBlock cfg s b).nl = s.nl := by
  unfold settleBlock; dsimp only; split <;> [skip; split <;> [skip; split]]
  all_goals simp
@[simp] theorem settleBlock_su : (settleBlock cfg s b).su = s.su := by
  unfold settleBlock; dsimp only; split <;> [skip; split <;> [skip; split]]
  all_goals simp
@[simp] theorem settleBlock_src : (settleBlock cfg s b).src = s.src := by
  unfold settleBlock; dsimp only; split <;> [skip; split <;> [skip; split]]
  all_goals simp
@[simp] theorem settleBlock_pending : (settleBlock cfg s b).pending = s.pending := by
  unfold settleBlock; dsimp only; split <;> [skip; split <;> [skip; split]]
  all_goals simp
end

section
variable (s : State) (cfg : Startup)
@[simp] theorem settleReady_du : (settleReady cfg s).du = s.du := by unfold settleReady; rw [foldl_keeps (fun s : State => s.du) _ (fun s b => settleBlock_du s cfg b)]; rfl
@[simp] theorem settleReady_ec : (settleReady cfg s).ec = s.ec := by unfold settleReady; rw [foldl_keeps (fun s : State => s.ec) _ (fun s b => settleBlock_ec s cfg b)]; rfl
@[simp] theorem settleReady_fe : (settleReady cfg s).fe = s.fe := by unfold settleReady; rw [foldl_keeps (fun s : State => s.fe) _ (fun s b => settleBlock_fe s cfg b)]; rfl
@[simp] theorem settleReady_keep : (settleReady cfg s).keep = s.keep := by unfold settleReady; rw [foldl_keeps (fun s : State => s.keep) _ (fun s b => settleBlock_keep s cfg b)]; rfl
@[simp] theorem settleReady_nl : (settleReady cfg s).nl = s.nl := by unfold settleReady; rw [foldl_keeps (fun s : State => s.nl) _ (fun s b => settleBlock_nl s cfg b)]; rfl
@[simp] theorem settleReady_su : (settleReady cfg s).su = s.su := by unfold settleReady; rw [foldl_keeps (fun s : State => s.su) _ (fun s b => settleBlock_su s cfg b)]; rfl
@[simp] theorem settleReady_src : (settleReady cfg s).src = s.src := by unfold settleReady; rw [foldl_keeps (fun s : State => s.src) _ (fun s b => settleBlock_src s cfg b)]; rfl
@[simp] theorem settleReady_pending : (settleReady cfg s).pending = s.pending := by unfold settleReady; rw [foldl_keeps (fun s : State => s.pending) _ (fun s b => settleBlock_pending s cfg b)]; rfl
end

section
variable (s : State) (cfg : Startup) (f : Word32)
@[simp] theorem closeBlock_du : (closeBlock cfg f s).du = s.du := by
  unfold closeBlock; split <;> [rfl; (dsimp only; split <;> [skip; split])]
  all_goals simp
@[simp] theorem closeBlock_ec : (closeBlock cfg f s).ec = s.ec := by
  unfold closeBlock; split <;> [rfl; (dsimp only; split <;> [skip; split])]
  all_goals simp
@[simp] theorem closeBlock_fe : (closeBlock cfg f s).fe = s.fe := by
  unfold closeBlock; split <;> [rfl; (dsimp only; split <;> [skip; split])]
  all_goals simp
@[simp] theorem closeBlock_keep : (closeBlock cfg f s).keep = s.keep := by
  unfold closeBlock; split <;> [rfl; (dsimp only; split <;> [skip; split])]
  all_goals simp
@[simp] theorem closeBlock_nl : (closeBlock cfg f s).nl = s.nl := by
  unfold closeBlock; split <;> [rfl; (dsimp only; split <;> [skip; split])]
  all_goals simp
@[simp] theorem closeBlock_su : (closeBlock cfg f s).su = s.su := by
  unfold closeBlock; split <;> [rfl; (dsimp only; split <;> [skip; split])]
  all_goals simp
@[simp] theorem closeBlock_src : (closeBlock cfg f s).src = s.src := by
  unfold closeBlock; split <;> [rfl; (dsimp only; split <;> [skip; split])]
  all_goals simp
@[simp] theorem closeBlock_pending : (closeBlock cfg f s).pending = s.pending := by
  unfold closeBlock; split <;> [rfl; (dsimp only; split <;> [skip; split])]
  all_goals simp
end

section
variable (s : State) (cfg : Startup)
@[simp] theorem closeNow_du : (closeNow cfg s).du = s.du := closeBlock_du s cfg _
@[simp] theorem closeNow_ec : (closeNow cfg s).ec = s.ec := closeBlock_ec s cfg _
@[simp] theorem closeNow_fe : (closeNow cfg s).fe = s.fe := closeBlock_fe s cfg _
@[simp] theorem closeNow_keep : (closeNow cfg s).keep = s.keep := closeBlock_keep s cfg _
@[simp] theorem closeNow_nl : (closeNow cfg s).nl = s.nl := closeBlock_nl s cfg _
@[simp] theorem closeNow_su : (closeNow cfg s).su = s.su := closeBlock_su s cfg _
@[simp] theorem closeNow_src : (closeNow cfg s).src = s.src := closeBlock_src s cfg _
@[simp] theorem closeNow_pending : (closeNow cfg s).pending = s.pending := closeBlock_pending s cfg _
end

section
variable (s : State) (cfg : Startup) (f : Word32)
@[simp] theorem naturalEnd_du : (naturalEnd cfg f s).du = s.du := by
  unfold naturalEnd; split <;> [split; skip]
  all_goals simp
@[simp] theorem naturalEnd_ec : (naturalEnd cfg f s).ec = s.ec := by
  unfold naturalEnd; split <;> [split; skip]
  all_goals simp
@[simp] theorem naturalEnd_fe : (naturalEnd cfg f s).fe = s.fe := by
  unfold naturalEnd; split <;> [split; skip]
  all_goals simp
@[simp] theorem naturalEnd_keep : (naturalEnd cfg f s).keep = s.keep := by
  unfold naturalEnd; split <;> [split; skip]
  all_goals simp
@[simp] theorem naturalEnd_nl : (naturalEnd cfg f s).nl = s.nl := by
  unfold naturalEnd; split <;> [split; skip]
  all_goals simp
@[simp] theorem naturalEnd_su : (naturalEnd cfg f s).su = s.su := by
  unfold naturalEnd; split <;> [split; skip]
  all_goals simp
@[simp] theorem naturalEnd_src : (naturalEnd cfg f s).src = s.src := by
  unfold naturalEnd; split <;> [split; skip]
  all_goals simp
@[simp] theorem naturalEnd_pending : (naturalEnd cfg f s).pending = s.pending := by
  unfold naturalEnd; split <;> [split; skip]
  all_goals simp
end

section
variable (s : State) (cfg : Startup) (f : Word32)
@[simp] theorem frameAbsent_du : (frameAbsent cfg s f).du = s.du := by unfold frameAbsent; dsimp only; split <;> simp
@[simp] theorem frameAbsent_ec : (frameAbsent cfg s f).ec = s.ec := by unfold frameAbsent; dsimp only; split <;> simp
@[simp] theorem frameAbsent_fe : (frameAbsent cfg s f).fe = s.fe := by unfold frameAbsent; dsimp only; split <;> simp
@[simp] theorem frameAbsent_keep : (frameAbsent cfg s f).keep = s.keep := by unfold frameAbsent; dsimp only; split <;> simp
@[simp] theorem frameAbsent_nl : (frameAbsent cfg s f).nl = s.nl := by unfold frameAbsent; dsimp only; split <;> simp
@[simp] theorem frameAbsent_su : (frameAbsent cfg s f).su = s.su := by unfold frameAbsent; dsimp only; split <;> simp
@[simp] theorem frameAbsent_src : (frameAbsent cfg s f).src = s.src := by unfold frameAbsent; dsimp only; split <;> simp
@[simp] theorem frameAbsent_pending : (frameAbsent cfg s f).pending = s.pending := by unfold frameAbsent; dsimp only; split <;> simp
end

section
variable (s : State) (cfg : Startup) (f : Word32)
@[simp] theorem treatAbsent_du : (treatAbsent cfg s f).du = s.du := by simp [treatAbsent]
@[simp] theorem treatAbsent_ec : (treatAbsent cfg s f).ec = s.ec := by simp [treatAbsent]
@[simp] theorem treatAbsent_fe : (treatAbsent cfg s f).fe = s.fe := by simp [treatAbsent]
@[simp] theorem treatAbsent_keep : (treatAbsent cfg s f).keep = s.keep := by simp [treatAbsent]
@[simp] theorem treatAbsent_nl : (treatAbsent cfg s f).nl = s.nl := by simp [treatAbsent]
@[simp] theorem treatAbsent_su : (treatAbsent cfg s f).su = s.su := by simp [treatAbsent]
@[simp] theorem treatAbsent_src : (treatAbsent cfg s f).src = s.src := by simp [treatAbsent]
@[simp] theorem treatAbsent_pending : (treatAbsent cfg s f).pending = s.pending := by simp [treatAbsent]
end

section
variable (s : State) (cfg : Startup) (f : Word32)
@[simp] theorem frameSkipped_du : (frameSkipped cfg f s).du = s.du := by unfold frameSkipped; dsimp only; split <;> simp
@[simp] theorem frameSkipped_ec : (frameSkipped cfg f s).ec = s.ec := by unfold frameSkipped; dsimp only; split <;> simp
@[simp] theorem frameSkipped_fe : (frameSkipped cfg f s).fe = s.fe := by unfold frameSkipped; dsimp only; split <;> simp
@[simp] theorem frameSkipped_keep : (frameSkipped cfg f s).keep = s.keep := by unfold frameSkipped; dsimp only; split <;> simp
@[simp] theorem frameSkipped_nl : (frameSkipped cfg f s).nl = s.nl := by unfold frameSkipped; dsimp only; split <;> simp
@[simp] theorem frameSkipped_su : (frameSkipped cfg f s).su = s.su := by unfold frameSkipped; dsimp only; split <;> simp
@[simp] theorem frameSkipped_src : (frameSkipped cfg f s).src = s.src := by unfold frameSkipped; dsimp only; split <;> simp
@[simp] theorem frameSkipped_pending : (frameSkipped cfg f s).pending = s.pending := by unfold frameSkipped; dsimp only; split <;> simp
end

section
variable (s : State) (f : Word32)
@[simp] theorem bindAtOpening_du : (bindAtOpening f s).du = s.du := foldl_keeps (·.du) _ (fun s i => by split <;> (try split) <;> simp) _ s
@[simp] theorem bindAtOpening_ec : (bindAtOpening f s).ec = s.ec := foldl_keeps (·.ec) _ (fun s i => by split <;> (try split) <;> simp) _ s
@[simp] theorem bindAtOpening_fe : (bindAtOpening f s).fe = s.fe := foldl_keeps (·.fe) _ (fun s i => by split <;> (try split) <;> simp) _ s
@[simp] theorem bindAtOpening_keep : (bindAtOpening f s).keep = s.keep := foldl_keeps (·.keep) _ (fun s i => by split <;> (try split) <;> simp) _ s
@[simp] theorem bindAtOpening_nl : (bindAtOpening f s).nl = s.nl := foldl_keeps (·.nl) _ (fun s i => by split <;> (try split) <;> simp) _ s
@[simp] theorem bindAtOpening_su : (bindAtOpening f s).su = s.su := foldl_keeps (·.su) _ (fun s i => by split <;> (try split) <;> simp) _ s
@[simp] theorem bindAtOpening_lc : (bindAtOpening f s).lc = s.lc := foldl_keeps (·.lc) _ (fun s i => by split <;> (try split) <;> simp) _ s
@[simp] theorem bindAtOpening_src : (bindAtOpening f s).src = s.src := foldl_keeps (·.src) _ (fun s i => by split <;> (try split) <;> simp) _ s
@[simp] theorem bindAtOpening_pending : (bindAtOpening f s).pending = s.pending := foldl_keeps (·.pending) _ (fun s i => by split <;> (try split) <;> simp) _ s
end

section
variable (s : State) (cfg : Startup)
@[simp] theorem openBlock_du : (openBlock cfg s).du = s.du := by unfold openBlock; simp
@[simp] theorem openBlock_ec : (openBlock cfg s).ec = s.ec := by unfold openBlock; simp
@[simp] theorem openBlock_fe : (openBlock cfg s).fe = s.fe := by unfold openBlock; simp
@[simp] theorem openBlock_nl : (openBlock cfg s).nl = s.nl := by unfold openBlock; simp
@[simp] theorem openBlock_su : (openBlock cfg s).su = s.su := by unfold openBlock; simp
@[simp] theorem openBlock_pending : (openBlock cfg s).pending = s.pending := by unfold openBlock; simp
end

section
variable (s : State) (h : Headstate)
@[simp] theorem returnHeadstate_ec : (returnHeadstate h s).ec = s.ec := rfl
@[simp] theorem returnHeadstate_fe : (returnHeadstate h s).fe = s.fe := rfl
@[simp] theorem returnHeadstate_keep : (returnHeadstate h s).keep = s.keep := rfl
@[simp] theorem returnHeadstate_tt : (returnHeadstate h s).tt = s.tt := rfl
@[simp] theorem returnHeadstate_nl : (returnHeadstate h s).nl = s.nl := rfl
@[simp] theorem returnHeadstate_ss : (returnHeadstate h s).ss = s.ss := rfl
@[simp] theorem returnHeadstate_su : (returnHeadstate h s).su = s.su := rfl
@[simp] theorem returnHeadstate_src : (returnHeadstate h s).src = s.src := rfl
@[simp] theorem returnHeadstate_pending : (returnHeadstate h s).pending = s.pending := rfl
end

section
variable (s : State) (i : Nat)
@[simp] theorem returnAt_ec : (returnAt i s).ec = s.ec := by unfold returnAt; split <;> simp
@[simp] theorem returnAt_fe : (returnAt i s).fe = s.fe := by unfold returnAt; split <;> simp
@[simp] theorem returnAt_keep : (returnAt i s).keep = s.keep := by unfold returnAt; split <;> simp
@[simp] theorem returnAt_tt : (returnAt i s).tt = s.tt := by unfold returnAt; split <;> simp
@[simp] theorem returnAt_nl : (returnAt i s).nl = s.nl := by unfold returnAt; split <;> simp
@[simp] theorem returnAt_ss : (returnAt i s).ss = s.ss := by unfold returnAt; split <;> simp
@[simp] theorem returnAt_su : (returnAt i s).su = s.su := by unfold returnAt; split <;> simp
@[simp] theorem returnAt_src : (returnAt i s).src = s.src := by unfold returnAt; split <;> simp
@[simp] theorem returnAt_pending : (returnAt i s).pending = s.pending := by unfold returnAt; split <;> simp
end

section
variable (s : State)
@[simp] theorem takenByHeadstate_ec : (takenByHeadstate s).ec = s.ec := rfl
@[simp] theorem takenByHeadstate_fe : (takenByHeadstate s).fe = s.fe := rfl
@[simp] theorem takenByHeadstate_keep : (takenByHeadstate s).keep = s.keep := rfl
@[simp] theorem takenByHeadstate_tt : (takenByHeadstate s).tt = s.tt := rfl
@[simp] theorem takenByHeadstate_nl : (takenByHeadstate s).nl = s.nl := rfl
@[simp] theorem takenByHeadstate_ss : (takenByHeadstate s).ss = s.ss := rfl
@[simp] theorem takenByHeadstate_su : (takenByHeadstate s).su = s.su := rfl
@[simp] theorem takenByHeadstate_src : (takenByHeadstate s).src = s.src := rfl
@[simp] theorem takenByHeadstate_pending : (takenByHeadstate s).pending = s.pending := rfl
end

section
variable (s : State) (h : Handover)
@[simp] theorem queueHandover_ec : (queueHandover h s).ec = s.ec := by
  unfold queueHandover; split <;> [skip; split <;> [skip; split]]
  all_goals simp
@[simp] theorem queueHandover_fe : (queueHandover h s).fe = s.fe := by
  unfold queueHandover; split <;> [skip; split <;> [skip; split]]
  all_goals simp
@[simp] theorem queueHandover_keep : (queueHandover h s).keep = s.keep := by
  unfold queueHandover; split <;> [skip; split <;> [skip; split]]
  all_goals simp
@[simp] theorem queueHandover_tt : (queueHandover h s).tt = s.tt := by
  unfold queueHandover; split <;> [skip; split <;> [skip; split]]
  all_goals simp
@[simp] theorem queueHandover_nl : (queueHandover h s).nl = s.nl := by
  unfold queueHandover; split <;> [skip; split <;> [skip; split]]
  all_goals simp
@[simp] theorem queueHandover_ss : (queueHandover h s).ss = s.ss := by
  unfold queueHandover; split <;> [skip; split <;> [skip; split]]
  all_goals simp
@[simp] theorem queueHandover_su : (queueHandover h s).su = s.su := by
  unfold queueHandover; split <;> [skip; split <;> [skip; split]]
  all_goals simp
@[simp] theorem queueHandover_src : (queueHandover h s).src = s.src := by
  unfold queueHandover; split <;> [skip; split <;> [skip; split]]
  all_goals simp
@[simp] theorem queueHandover_pending : (queueHandover h s).pending = s.pending := by
  unfold queueHandover; split <;> [skip; split <;> [skip; split]]
  all_goals simp
end

section
variable (s : State)
@[simp] theorem queueHeadstate_ec : (queueHeadstate s).ec = s.ec := by
  unfold queueHeadstate; dsimp only; split <;> [skip; split <;> [skip; split]]
  all_goals simp
@[simp] theorem queueHeadstate_fe : (queueHeadstate s).fe = s.fe := by
  unfold queueHeadstate; dsimp only; split <;> [skip; split <;> [skip; split]]
  all_goals simp
@[simp] theorem queueHeadstate_keep : (queueHeadstate s).keep = s.keep := by
  unfold queueHeadstate; dsimp only; split <;> [skip; split <;> [skip; split]]
  all_goals simp
@[simp] theorem queueHeadstate_tt : (queueHeadstate s).tt = s.tt := by
  unfold queueHeadstate; dsimp only; split <;> [skip; split <;> [skip; split]]
  all_goals simp
@[simp] theorem queueHeadstate_nl : (queueHeadstate s).nl = s.nl := by
  unfold queueHeadstate; dsimp only; split <;> [skip; split <;> [skip; split]]
  all_goals simp
@[simp] theorem queueHeadstate_ss : (queueHeadstate s).ss = s.ss := by
  unfold queueHeadstate; dsimp only; split <;> [skip; split <;> [skip; split]]
  all_goals simp
@[simp] theorem queueHeadstate_su : (queueHeadstate s).su = s.su := by
  unfold queueHeadstate; dsimp only; split <;> [skip; split <;> [skip; split]]
  all_goals simp
@[simp] theorem queueHeadstate_src : (queueHeadstate s).src = s.src := by
  unfold queueHeadstate; dsimp only; split <;> [skip; split <;> [skip; split]]
  all_goals simp
@[simp] theorem queueHeadstate_pending : (queueHeadstate s).pending = s.pending := by
  unfold queueHeadstate; dsimp only; split <;> [skip; split <;> [skip; split]]
  all_goals simp
end

section
variable (s : State)
@[simp] theorem headstateDue_ec : (headstateDue s).ec = s.ec := by unfold headstateDue; split <;> simp
@[simp] theorem headstateDue_fe : (headstateDue s).fe = s.fe := by unfold headstateDue; split <;> simp
@[simp] theorem headstateDue_keep : (headstateDue s).keep = s.keep := by unfold headstateDue; split <;> simp
@[simp] theorem headstateDue_tt : (headstateDue s).tt = s.tt := by unfold headstateDue; split <;> simp
@[simp] theorem headstateDue_nl : (headstateDue s).nl = s.nl := by unfold headstateDue; split <;> simp
@[simp] theorem headstateDue_ss : (headstateDue s).ss = s.ss := by unfold headstateDue; split <;> simp
@[simp] theorem headstateDue_su : (headstateDue s).su = s.su := by unfold headstateDue; split <;> simp
@[simp] theorem headstateDue_src : (headstateDue s).src = s.src := by unfold headstateDue; split <;> simp
@[simp] theorem headstateDue_pending : (headstateDue s).pending = s.pending := by unfold headstateDue; split <;> simp
end

section
variable (s : State)
@[simp] theorem queueWaitingHeadstate_ec : (queueWaitingHeadstate s).ec = s.ec := by unfold queueWaitingHeadstate; split <;> simp
@[simp] theorem queueWaitingHeadstate_fe : (queueWaitingHeadstate s).fe = s.fe := by unfold queueWaitingHeadstate; split <;> simp
@[simp] theorem queueWaitingHeadstate_keep : (queueWaitingHeadstate s).keep = s.keep := by unfold queueWaitingHeadstate; split <;> simp
@[simp] theorem queueWaitingHeadstate_tt : (queueWaitingHeadstate s).tt = s.tt := by unfold queueWaitingHeadstate; split <;> simp
@[simp] theorem queueWaitingHeadstate_nl : (queueWaitingHeadstate s).nl = s.nl := by unfold queueWaitingHeadstate; split <;> simp
@[simp] theorem queueWaitingHeadstate_ss : (queueWaitingHeadstate s).ss = s.ss := by unfold queueWaitingHeadstate; split <;> simp
@[simp] theorem queueWaitingHeadstate_su : (queueWaitingHeadstate s).su = s.su := by unfold queueWaitingHeadstate; split <;> simp
@[simp] theorem queueWaitingHeadstate_src : (queueWaitingHeadstate s).src = s.src := by unfold queueWaitingHeadstate; split <;> simp
@[simp] theorem queueWaitingHeadstate_pending : (queueWaitingHeadstate s).pending = s.pending := by unfold queueWaitingHeadstate; split <;> simp
end

section
variable (s : State) (i : Nat)
@[simp] theorem freeEntry_du : (freeEntry i s).du = s.du := by unfold freeEntry; split <;> simp
@[simp] theorem freeEntry_ec : (freeEntry i s).ec = s.ec := by unfold freeEntry; split <;> simp
@[simp] theorem freeEntry_fe : (freeEntry i s).fe = s.fe := by unfold freeEntry; split <;> simp
@[simp] theorem freeEntry_keep : (freeEntry i s).keep = s.keep := by unfold freeEntry; split <;> simp
@[simp] theorem freeEntry_nl : (freeEntry i s).nl = s.nl := by unfold freeEntry; split <;> simp
@[simp] theorem freeEntry_su : (freeEntry i s).su = s.su := by unfold freeEntry; split <;> simp
@[simp] theorem freeEntry_lc : (freeEntry i s).lc = s.lc := by unfold freeEntry; split <;> simp
@[simp] theorem freeEntry_src : (freeEntry i s).src = s.src := by unfold freeEntry; split <;> simp
@[simp] theorem freeEntry_pending : (freeEntry i s).pending = s.pending := by unfold freeEntry; split <;> simp
end

section
variable (s : State) (i : Nat) (m : Byte → Word32 → Entry)
@[simp] theorem placeEntry_du : (placeEntry i m s).du = s.du := rfl
@[simp] theorem placeEntry_ec : (placeEntry i m s).ec = s.ec := rfl
@[simp] theorem placeEntry_fe : (placeEntry i m s).fe = s.fe := rfl
@[simp] theorem placeEntry_keep : (placeEntry i m s).keep = s.keep := rfl
@[simp] theorem placeEntry_nl : (placeEntry i m s).nl = s.nl := rfl
@[simp] theorem placeEntry_ss : (placeEntry i m s).ss = s.ss := rfl
@[simp] theorem placeEntry_su : (placeEntry i m s).su = s.su := rfl
@[simp] theorem placeEntry_lc : (placeEntry i m s).lc = s.lc := rfl
@[simp] theorem placeEntry_src : (placeEntry i m s).src = s.src := rfl
@[simp] theorem placeEntry_pending : (placeEntry i m s).pending = s.pending := rfl
end

section
variable (s s' : State) (md : List Nat) (i : Nat)
theorem makeRoom_du (h : makeRoom md s = some (i, s')) : s'.du = s.du := by
  unfold makeRoom at h
  split at h
  · cases h; rfl
  · obtain ⟨j, -, hj⟩ := Option.map_eq_some_iff.mp h
    cases hj; simp
theorem makeRoom_ec (h : makeRoom md s = some (i, s')) : s'.ec = s.ec := by
  unfold makeRoom at h
  split at h
  · cases h; rfl
  · obtain ⟨j, -, hj⟩ := Option.map_eq_some_iff.mp h
    cases hj; simp
theorem makeRoom_fe (h : makeRoom md s = some (i, s')) : s'.fe = s.fe := by
  unfold makeRoom at h
  split at h
  · cases h; rfl
  · obtain ⟨j, -, hj⟩ := Option.map_eq_some_iff.mp h
    cases hj; simp
theorem makeRoom_keep (h : makeRoom md s = some (i, s')) : s'.keep = s.keep := by
  unfold makeRoom at h
  split at h
  · cases h; rfl
  · obtain ⟨j, -, hj⟩ := Option.map_eq_some_iff.mp h
    cases hj; simp
theorem makeRoom_nl (h : makeRoom md s = some (i, s')) : s'.nl = s.nl := by
  unfold makeRoom at h
  split at h
  · cases h; rfl
  · obtain ⟨j, -, hj⟩ := Option.map_eq_some_iff.mp h
    cases hj; simp
theorem makeRoom_su (h : makeRoom md s = some (i, s')) : s'.su = s.su := by
  unfold makeRoom at h
  split at h
  · cases h; rfl
  · obtain ⟨j, -, hj⟩ := Option.map_eq_some_iff.mp h
    cases hj; simp
theorem makeRoom_lc (h : makeRoom md s = some (i, s')) : s'.lc = s.lc := by
  unfold makeRoom at h
  split at h
  · cases h; rfl
  · obtain ⟨j, -, hj⟩ := Option.map_eq_some_iff.mp h
    cases hj; simp
theorem makeRoom_src (h : makeRoom md s = some (i, s')) : s'.src = s.src := by
  unfold makeRoom at h
  split at h
  · cases h; rfl
  · obtain ⟨j, -, hj⟩ := Option.map_eq_some_iff.mp h
    cases hj; simp
theorem makeRoom_pending (h : makeRoom md s = some (i, s')) : s'.pending = s.pending := by
  unfold makeRoom at h
  split at h
  · cases h; rfl
  · obtain ⟨j, -, hj⟩ := Option.map_eq_some_iff.mp h
    cases hj; simp
end

section
variable (m : Int) (a : List Nat × State) (c : Candidate)
@[simp] theorem createFrom_du : (createFrom m a c).2.du = a.2.du := by
  unfold createFrom
  dsimp only
  split
  · split
    · rename_i i s' h
      simp [makeRoom_du _ _ _ _ h]
    · simp
  · rfl
@[simp] theorem createFrom_ec : (createFrom m a c).2.ec = a.2.ec := by
  unfold createFrom
  dsimp only
  split
  · split
    · rename_i i s' h
      simp [makeRoom_ec _ _ _ _ h]
    · simp
  · rfl
@[simp] theorem createFrom_fe : (createFrom m a c).2.fe = a.2.fe := by
  unfold createFrom
  dsimp only
  split
  · split
    · rename_i i s' h
      simp [makeRoom_fe _ _ _ _ h]
    · simp
  · rfl
@[simp] theorem createFrom_keep : (createFrom m a c).2.keep = a.2.keep := by
  unfold createFrom
  dsimp only
  split
  · split
    · rename_i i s' h
      simp [makeRoom_keep _ _ _ _ h]
    · simp
  · rfl
@[simp] theorem createFrom_nl : (createFrom m a c).2.nl = a.2.nl := by
  unfold createFrom
  dsimp only
  split
  · split
    · rename_i i s' h
      simp [makeRoom_nl _ _ _ _ h]
    · simp
  · rfl
@[simp] theorem createFrom_su : (createFrom m a c).2.su = a.2.su := by
  unfold createFrom
  dsimp only
  split
  · split
    · rename_i i s' h
      simp [makeRoom_su _ _ _ _ h]
    · simp
  · rfl
@[simp] theorem createFrom_src : (createFrom m a c).2.src = a.2.src := by
  unfold createFrom
  dsimp only
  split
  · split
    · rename_i i s' h
      simp [makeRoom_src _ _ _ _ h]
    · simp
  · rfl
@[simp] theorem createFrom_pending : (createFrom m a c).2.pending = a.2.pending := by
  unfold createFrom
  dsimp only
  split
  · split
    · rename_i i s' h
      simp [makeRoom_pending _ _ _ _ h]
    · simp
  · rfl
end

section
variable (s : State) (row : RowInProcess) (tk : List Pairing) (i : Nat)
@[simp] theorem updateEntry_du : (updateEntry row tk s i).du = s.du := by
  unfold updateEntry; split <;> [rfl; (split <;> [(dsimp only; split); skip; (split <;> [skip; split])])]
  all_goals simp
@[simp] theorem updateEntry_ec : (updateEntry row tk s i).ec = s.ec := by
  unfold updateEntry; split <;> [rfl; (split <;> [(dsimp only; split); skip; (split <;> [skip; split])])]
  all_goals simp
@[simp] theorem updateEntry_fe : (updateEntry row tk s i).fe = s.fe := by
  unfold updateEntry; split <;> [rfl; (split <;> [(dsimp only; split); skip; (split <;> [skip; split])])]
  all_goals simp
@[simp] theorem updateEntry_keep : (updateEntry row tk s i).keep = s.keep := by
  unfold updateEntry; split <;> [rfl; (split <;> [(dsimp only; split); skip; (split <;> [skip; split])])]
  all_goals simp
@[simp] theorem updateEntry_nl : (updateEntry row tk s i).nl = s.nl := by
  unfold updateEntry; split <;> [rfl; (split <;> [(dsimp only; split); skip; (split <;> [skip; split])])]
  all_goals simp
@[simp] theorem updateEntry_su : (updateEntry row tk s i).su = s.su := by
  unfold updateEntry; split <;> [rfl; (split <;> [(dsimp only; split); skip; (split <;> [skip; split])])]
  all_goals simp
@[simp] theorem updateEntry_lc : (updateEntry row tk s i).lc = s.lc := by
  unfold updateEntry; split <;> [rfl; (split <;> [(dsimp only; split); skip; (split <;> [skip; split])])]
  all_goals simp
@[simp] theorem updateEntry_src : (updateEntry row tk s i).src = s.src := by
  unfold updateEntry; split <;> [rfl; (split <;> [(dsimp only; split); skip; (split <;> [skip; split])])]
  all_goals simp
@[simp] theorem updateEntry_pending : (updateEntry row tk s i).pending = s.pending := by
  unfold updateEntry; split <;> [rfl; (split <;> [(dsimp only; split); skip; (split <;> [skip; split])])]
  all_goals simp
end

section
variable (s : State) (row : RowInProcess) (tk : List Pairing)
@[simp] theorem updateEntries_du : (updateEntries row tk s).du = s.du := foldl_keeps (·.du) _ (fun s i => updateEntry_du s row tk i) _ s
@[simp] theorem updateEntries_ec : (updateEntries row tk s).ec = s.ec := foldl_keeps (·.ec) _ (fun s i => updateEntry_ec s row tk i) _ s
@[simp] theorem updateEntries_fe : (updateEntries row tk s).fe = s.fe := foldl_keeps (·.fe) _ (fun s i => updateEntry_fe s row tk i) _ s
@[simp] theorem updateEntries_keep : (updateEntries row tk s).keep = s.keep := foldl_keeps (·.keep) _ (fun s i => updateEntry_keep s row tk i) _ s
@[simp] theorem updateEntries_nl : (updateEntries row tk s).nl = s.nl := foldl_keeps (·.nl) _ (fun s i => updateEntry_nl s row tk i) _ s
@[simp] theorem updateEntries_su : (updateEntries row tk s).su = s.su := foldl_keeps (·.su) _ (fun s i => updateEntry_su s row tk i) _ s
@[simp] theorem updateEntries_lc : (updateEntries row tk s).lc = s.lc := foldl_keeps (·.lc) _ (fun s i => updateEntry_lc s row tk i) _ s
@[simp] theorem updateEntries_src : (updateEntries row tk s).src = s.src := foldl_keeps (·.src) _ (fun s i => updateEntry_src s row tk i) _ s
@[simp] theorem updateEntries_pending : (updateEntries row tk s).pending = s.pending := foldl_keeps (·.pending) _ (fun s i => updateEntry_pending s row tk i) _ s
end

section
variable (s : State) (i : Nat)
@[simp] theorem mergeAt_du : (mergeAt s i).du = s.du := by
  unfold mergeAt; split <;> [(split <;> [(split <;> [split; skip]); skip]); skip]
  all_goals simp
@[simp] theorem mergeAt_ec : (mergeAt s i).ec = s.ec := by
  unfold mergeAt; split <;> [(split <;> [(split <;> [split; skip]); skip]); skip]
  all_goals simp
@[simp] theorem mergeAt_fe : (mergeAt s i).fe = s.fe := by
  unfold mergeAt; split <;> [(split <;> [(split <;> [split; skip]); skip]); skip]
  all_goals simp
@[simp] theorem mergeAt_keep : (mergeAt s i).keep = s.keep := by
  unfold mergeAt; split <;> [(split <;> [(split <;> [split; skip]); skip]); skip]
  all_goals simp
@[simp] theorem mergeAt_nl : (mergeAt s i).nl = s.nl := by
  unfold mergeAt; split <;> [(split <;> [(split <;> [split; skip]); skip]); skip]
  all_goals simp
@[simp] theorem mergeAt_su : (mergeAt s i).su = s.su := by
  unfold mergeAt; split <;> [(split <;> [(split <;> [split; skip]); skip]); skip]
  all_goals simp
@[simp] theorem mergeAt_lc : (mergeAt s i).lc = s.lc := by
  unfold mergeAt; split <;> [(split <;> [(split <;> [split; skip]); skip]); skip]
  all_goals simp
@[simp] theorem mergeAt_src : (mergeAt s i).src = s.src := by
  unfold mergeAt; split <;> [(split <;> [(split <;> [split; skip]); skip]); skip]
  all_goals simp
@[simp] theorem mergeAt_pending : (mergeAt s i).pending = s.pending := by
  unfold mergeAt; split <;> [(split <;> [(split <;> [split; skip]); skip]); skip]
  all_goals simp
end

section
variable (s : State)
@[simp] theorem mergeDuplicates_du : (mergeDuplicates s).du = s.du := foldl_keeps (·.du) _ (fun s i => mergeAt_du s i) _ s
@[simp] theorem mergeDuplicates_ec : (mergeDuplicates s).ec = s.ec := foldl_keeps (·.ec) _ (fun s i => mergeAt_ec s i) _ s
@[simp] theorem mergeDuplicates_fe : (mergeDuplicates s).fe = s.fe := foldl_keeps (·.fe) _ (fun s i => mergeAt_fe s i) _ s
@[simp] theorem mergeDuplicates_keep : (mergeDuplicates s).keep = s.keep := foldl_keeps (·.keep) _ (fun s i => mergeAt_keep s i) _ s
@[simp] theorem mergeDuplicates_nl : (mergeDuplicates s).nl = s.nl := foldl_keeps (·.nl) _ (fun s i => mergeAt_nl s i) _ s
@[simp] theorem mergeDuplicates_su : (mergeDuplicates s).su = s.su := foldl_keeps (·.su) _ (fun s i => mergeAt_su s i) _ s
@[simp] theorem mergeDuplicates_lc : (mergeDuplicates s).lc = s.lc := foldl_keeps (·.lc) _ (fun s i => mergeAt_lc s i) _ s
@[simp] theorem mergeDuplicates_src : (mergeDuplicates s).src = s.src := foldl_keeps (·.src) _ (fun s i => mergeAt_src s i) _ s
@[simp] theorem mergeDuplicates_pending : (mergeDuplicates s).pending = s.pending := foldl_keeps (·.pending) _ (fun s i => mergeAt_pending s i) _ s
end

section
variable (s : State) (m : Int) (row : RowInProcess) (tk : List Pairing)
@[simp] theorem createEntries_du : (createEntries m row tk s).du = s.du := by unfold createEntries; split <;> [exact foldl_keeps (fun a : List Nat × State => a.2.du) _ (fun a c => createFrom_du m a c) _ _; rfl]
@[simp] theorem createEntries_ec : (createEntries m row tk s).ec = s.ec := by unfold createEntries; split <;> [exact foldl_keeps (fun a : List Nat × State => a.2.ec) _ (fun a c => createFrom_ec m a c) _ _; rfl]
@[simp] theorem createEntries_fe : (createEntries m row tk s).fe = s.fe := by unfold createEntries; split <;> [exact foldl_keeps (fun a : List Nat × State => a.2.fe) _ (fun a c => createFrom_fe m a c) _ _; rfl]
@[simp] theorem createEntries_keep : (createEntries m row tk s).keep = s.keep := by unfold createEntries; split <;> [exact foldl_keeps (fun a : List Nat × State => a.2.keep) _ (fun a c => createFrom_keep m a c) _ _; rfl]
@[simp] theorem createEntries_nl : (createEntries m row tk s).nl = s.nl := by unfold createEntries; split <;> [exact foldl_keeps (fun a : List Nat × State => a.2.nl) _ (fun a c => createFrom_nl m a c) _ _; rfl]
@[simp] theorem createEntries_su : (createEntries m row tk s).su = s.su := by unfold createEntries; split <;> [exact foldl_keeps (fun a : List Nat × State => a.2.su) _ (fun a c => createFrom_su m a c) _ _; rfl]
@[simp] theorem createEntries_src : (createEntries m row tk s).src = s.src := by unfold createEntries; split <;> [exact foldl_keeps (fun a : List Nat × State => a.2.src) _ (fun a c => createFrom_src m a c) _ _; rfl]
@[simp] theorem createEntries_pending : (createEntries m row tk s).pending = s.pending := by unfold createEntries; split <;> [exact foldl_keeps (fun a : List Nat × State => a.2.pending) _ (fun a c => createFrom_pending m a c) _ _; rfl]
end

section
variable (s : State) (i : Nat) (e : Entry) (t : Nat)
@[simp] theorem handOver_ec : (handOver i e t s).ec = s.ec := by unfold handOver; simp
@[simp] theorem handOver_fe : (handOver i e t s).fe = s.fe := by unfold handOver; simp
@[simp] theorem handOver_keep : (handOver i e t s).keep = s.keep := by unfold handOver; simp
@[simp] theorem handOver_nl : (handOver i e t s).nl = s.nl := by unfold handOver; simp
@[simp] theorem handOver_su : (handOver i e t s).su = s.su := by unfold handOver; simp
@[simp] theorem handOver_src : (handOver i e t s).src = s.src := by unfold handOver; simp
@[simp] theorem handOver_pending : (handOver i e t s).pending = s.pending := by unfold handOver; simp
end

section
variable (s : State) (f : Word32) (i : Nat)
@[simp] theorem ownershipTest_ec : (ownershipTest f s i).ec = s.ec := by
  unfold ownershipTest; split <;> [rfl; split]
  all_goals (first | rfl | (split <;> simp))
@[simp] theorem ownershipTest_fe : (ownershipTest f s i).fe = s.fe := by
  unfold ownershipTest; split <;> [rfl; split]
  all_goals (first | rfl | (split <;> simp))
@[simp] theorem ownershipTest_keep : (ownershipTest f s i).keep = s.keep := by
  unfold ownershipTest; split <;> [rfl; split]
  all_goals (first | rfl | (split <;> simp))
@[simp] theorem ownershipTest_nl : (ownershipTest f s i).nl = s.nl := by
  unfold ownershipTest; split <;> [rfl; split]
  all_goals (first | rfl | (split <;> simp))
@[simp] theorem ownershipTest_su : (ownershipTest f s i).su = s.su := by
  unfold ownershipTest; split <;> [rfl; split]
  all_goals (first | rfl | (split <;> simp))
@[simp] theorem ownershipTest_src : (ownershipTest f s i).src = s.src := by
  unfold ownershipTest; split <;> [rfl; split]
  all_goals (first | rfl | (split <;> simp))
@[simp] theorem ownershipTest_pending : (ownershipTest f s i).pending = s.pending := by
  unfold ownershipTest; split <;> [rfl; split]
  all_goals (first | rfl | (split <;> simp))
end

section
variable (s : State) (row : RowInProcess)
@[simp] theorem ownershipTests_ec : (ownershipTests row s).ec = s.ec := foldl_keeps (·.ec) _ (fun s i => ownershipTest_ec s row.frame i) _ s
@[simp] theorem ownershipTests_fe : (ownershipTests row s).fe = s.fe := foldl_keeps (·.fe) _ (fun s i => ownershipTest_fe s row.frame i) _ s
@[simp] theorem ownershipTests_keep : (ownershipTests row s).keep = s.keep := foldl_keeps (·.keep) _ (fun s i => ownershipTest_keep s row.frame i) _ s
@[simp] theorem ownershipTests_nl : (ownershipTests row s).nl = s.nl := foldl_keeps (·.nl) _ (fun s i => ownershipTest_nl s row.frame i) _ s
@[simp] theorem ownershipTests_su : (ownershipTests row s).su = s.su := foldl_keeps (·.su) _ (fun s i => ownershipTest_su s row.frame i) _ s
@[simp] theorem ownershipTests_src : (ownershipTests row s).src = s.src := foldl_keeps (·.src) _ (fun s i => ownershipTest_src s row.frame i) _ s
@[simp] theorem ownershipTests_pending : (ownershipTests row s).pending = s.pending := foldl_keeps (·.pending) _ (fun s i => ownershipTest_pending s row.frame i) _ s
end

section
variable (s : State) (cfg : Startup) (row : RowInProcess) (tk : List Pairing) (b : TrackTable) (i : Nat)
@[simp] theorem handOn_du : (handOn cfg row tk b s i).du = s.du := by
  unfold handOn
  split <;> [(split <;> [split; skip]); skip]
  all_goals first
    | rfl
    | exact getD_map_keeps _ _ _ (fun _ => by simp) _
@[simp] theorem handOn_ec : (handOn cfg row tk b s i).ec = s.ec := by
  unfold handOn
  split <;> [(split <;> [split; skip]); skip]
  all_goals first
    | rfl
    | exact getD_map_keeps _ _ _ (fun _ => by simp) _
@[simp] theorem handOn_fe : (handOn cfg row tk b s i).fe = s.fe := by
  unfold handOn
  split <;> [(split <;> [split; skip]); skip]
  all_goals first
    | rfl
    | exact getD_map_keeps _ _ _ (fun _ => by simp) _
@[simp] theorem handOn_keep : (handOn cfg row tk b s i).keep = s.keep := by
  unfold handOn
  split <;> [(split <;> [split; skip]); skip]
  all_goals first
    | rfl
    | exact getD_map_keeps _ _ _ (fun _ => by simp) _
@[simp] theorem handOn_tt : (handOn cfg row tk b s i).tt = s.tt := by
  unfold handOn
  split <;> [(split <;> [split; skip]); skip]
  all_goals first
    | rfl
    | exact getD_map_keeps _ _ _ (fun _ => by simp) _
@[simp] theorem handOn_nl : (handOn cfg row tk b s i).nl = s.nl := by
  unfold handOn
  split <;> [(split <;> [split; skip]); skip]
  all_goals first
    | rfl
    | exact getD_map_keeps _ _ _ (fun _ => by simp) _
@[simp] theorem handOn_su : (handOn cfg row tk b s i).su = s.su := by
  unfold handOn
  split <;> [(split <;> [split; skip]); skip]
  all_goals first
    | rfl
    | exact getD_map_keeps _ _ _ (fun _ => by simp) _
@[simp] theorem handOn_lc : (handOn cfg row tk b s i).lc = s.lc := by
  unfold handOn
  split <;> [(split <;> [split; skip]); skip]
  all_goals first
    | rfl
    | exact getD_map_keeps _ _ _ (fun _ => by simp) _
@[simp] theorem handOn_src : (handOn cfg row tk b s i).src = s.src := by
  unfold handOn
  split <;> [(split <;> [split; skip]); skip]
  all_goals first
    | rfl
    | exact getD_map_keeps _ _ _ (fun _ => by simp) _
@[simp] theorem handOn_pending : (handOn cfg row tk b s i).pending = s.pending := by
  unfold handOn
  split <;> [(split <;> [split; skip]); skip]
  all_goals first
    | rfl
    | exact getD_map_keeps _ _ _ (fun _ => by simp) _
end

section
variable (s : State) (cfg : Startup) (row : RowInProcess) (tk : List Pairing) (b : TrackTable)
@[simp] theorem handOnHits_du : (handOnHits cfg row tk b s).du = s.du := foldl_keeps (·.du) _ (fun s i => handOn_du s cfg row tk b i) _ s
@[simp] theorem handOnHits_ec : (handOnHits cfg row tk b s).ec = s.ec := foldl_keeps (·.ec) _ (fun s i => handOn_ec s cfg row tk b i) _ s
@[simp] theorem handOnHits_fe : (handOnHits cfg row tk b s).fe = s.fe := foldl_keeps (·.fe) _ (fun s i => handOn_fe s cfg row tk b i) _ s
@[simp] theorem handOnHits_keep : (handOnHits cfg row tk b s).keep = s.keep := foldl_keeps (·.keep) _ (fun s i => handOn_keep s cfg row tk b i) _ s
@[simp] theorem handOnHits_tt : (handOnHits cfg row tk b s).tt = s.tt := foldl_keeps (·.tt) _ (fun s i => handOn_tt s cfg row tk b i) _ s
@[simp] theorem handOnHits_nl : (handOnHits cfg row tk b s).nl = s.nl := foldl_keeps (·.nl) _ (fun s i => handOn_nl s cfg row tk b i) _ s
@[simp] theorem handOnHits_su : (handOnHits cfg row tk b s).su = s.su := foldl_keeps (·.su) _ (fun s i => handOn_su s cfg row tk b i) _ s
@[simp] theorem handOnHits_lc : (handOnHits cfg row tk b s).lc = s.lc := foldl_keeps (·.lc) _ (fun s i => handOn_lc s cfg row tk b i) _ s
@[simp] theorem handOnHits_src : (handOnHits cfg row tk b s).src = s.src := foldl_keeps (·.src) _ (fun s i => handOn_src s cfg row tk b i) _ s
@[simp] theorem handOnHits_pending : (handOnHits cfg row tk b s).pending = s.pending := foldl_keeps (·.pending) _ (fun s i => handOn_pending s cfg row tk b i) _ s
end

section
variable (s : State) (cfg : Startup) (row : RowInProcess)
@[simp] theorem treatRow_ec : (treatRow cfg row s).ec = s.ec := by unfold treatRow; simp
@[simp] theorem treatRow_fe : (treatRow cfg row s).fe = s.fe := by unfold treatRow; simp
@[simp] theorem treatRow_keep : (treatRow cfg row s).keep = s.keep := by unfold treatRow; simp
@[simp] theorem treatRow_nl : (treatRow cfg row s).nl = s.nl := by unfold treatRow; simp
@[simp] theorem treatRow_su : (treatRow cfg row s).su = s.su := by unfold treatRow; simp
@[simp] theorem treatRow_src : (treatRow cfg row s).src = s.src := by unfold treatRow; simp
@[simp] theorem treatRow_pending : (treatRow cfg row s).pending = s.pending := by unfold treatRow; simp
end

section
variable (s : State) (cfg : Startup)
@[simp] theorem triggerAgeing_fe : (triggerAgeing cfg s).fe = s.fe := by unfold triggerAgeing; simp
@[simp] theorem triggerAgeing_keep : (triggerAgeing cfg s).keep = s.keep := by unfold triggerAgeing; simp
@[simp] theorem triggerAgeing_ss : (triggerAgeing cfg s).ss = s.ss := by unfold triggerAgeing; simp
@[simp] theorem triggerAgeing_lc : (triggerAgeing cfg s).lc = s.lc := by unfold triggerAgeing; simp
@[simp] theorem triggerAgeing_src : (triggerAgeing cfg s).src = s.src := by unfold triggerAgeing; simp
@[simp] theorem triggerAgeing_pending : (triggerAgeing cfg s).pending = s.pending := by unfold triggerAgeing; simp
end

section
variable (s : State) (cfg : Startup)
@[simp] theorem triggerBlocks_du : (triggerBlocks cfg s).du = s.du := by
  unfold triggerBlocks
  dsimp only
  repeat' split
  all_goals simp
@[simp] theorem triggerBlocks_ec : (triggerBlocks cfg s).ec = s.ec := by
  unfold triggerBlocks
  dsimp only
  repeat' split
  all_goals simp
@[simp] theorem triggerBlocks_fe : (triggerBlocks cfg s).fe = s.fe := by
  unfold triggerBlocks
  dsimp only
  repeat' split
  all_goals simp
@[simp] theorem triggerBlocks_nl : (triggerBlocks cfg s).nl = s.nl := by
  unfold triggerBlocks
  dsimp only
  repeat' split
  all_goals simp
@[simp] theorem triggerBlocks_su : (triggerBlocks cfg s).su = s.su := by
  unfold triggerBlocks
  dsimp only
  repeat' split
  all_goals simp
@[simp] theorem triggerBlocks_pending : (triggerBlocks cfg s).pending = s.pending := by
  unfold triggerBlocks
  dsimp only
  repeat' split
  all_goals simp
end

section
variable (s : State) (cfg : Startup)
@[simp] theorem triggerExposure_du : (triggerExposure cfg s).du = s.du := by unfold triggerExposure; split <;> simp
@[simp] theorem triggerExposure_fe : (triggerExposure cfg s).fe = s.fe := by unfold triggerExposure; split <;> simp
@[simp] theorem triggerExposure_keep : (triggerExposure cfg s).keep = s.keep := by unfold triggerExposure; split <;> simp
@[simp] theorem triggerExposure_nl : (triggerExposure cfg s).nl = s.nl := by unfold triggerExposure; split <;> simp
@[simp] theorem triggerExposure_su : (triggerExposure cfg s).su = s.su := by unfold triggerExposure; split <;> simp
@[simp] theorem triggerExposure_src : (triggerExposure cfg s).src = s.src := by unfold triggerExposure; split <;> simp
@[simp] theorem triggerExposure_pending : (triggerExposure cfg s).pending = s.pending := by unfold triggerExposure; split <;> simp
end

section
variable (s : State)
@[simp] theorem triggerHeadstate_ec : (triggerHeadstate s).ec = s.ec := by unfold triggerHeadstate; split <;> simp
@[simp] theorem triggerHeadstate_fe : (triggerHeadstate s).fe = s.fe := by unfold triggerHeadstate; split <;> simp
@[simp] theorem triggerHeadstate_keep : (triggerHeadstate s).keep = s.keep := by unfold triggerHeadstate; split <;> simp
@[simp] theorem triggerHeadstate_tt : (triggerHeadstate s).tt = s.tt := by unfold triggerHeadstate; split <;> simp
@[simp] theorem triggerHeadstate_nl : (triggerHeadstate s).nl = s.nl := by unfold triggerHeadstate; split <;> simp
@[simp] theorem triggerHeadstate_ss : (triggerHeadstate s).ss = s.ss := by unfold triggerHeadstate; split <;> simp
@[simp] theorem triggerHeadstate_su : (triggerHeadstate s).su = s.su := by unfold triggerHeadstate; split <;> simp
@[simp] theorem triggerHeadstate_src : (triggerHeadstate s).src = s.src := by unfold triggerHeadstate; split <;> simp
@[simp] theorem triggerHeadstate_pending : (triggerHeadstate s).pending = s.pending := by unfold triggerHeadstate; split <;> simp
end

section
variable (s : State) (cfg : Startup)
@[simp] theorem frameTrigger_fe : (frameTrigger cfg s).fe = s.fe := by unfold frameTrigger; simp
@[simp] theorem frameTrigger_pending : (frameTrigger cfg s).pending = s.pending := by unfold frameTrigger; simp
end

section
variable (s : State) (cfg : Startup)
@[simp] theorem takeTrigger_fe : (takeTrigger cfg s).fe = s.fe := by unfold takeTrigger; split <;> simp
@[simp] theorem takeTrigger_pending : (takeTrigger cfg s).pending = s.pending := by unfold takeTrigger; split <;> simp
end

section
variable (s : State) (cfg : Startup) (i : Nat) (e : Entry)
@[simp] theorem reclaim_du : (reclaim cfg i e s).du = s.du := by unfold reclaim skipNewLanes; dsimp only; split <;> split <;> simp
@[simp] theorem reclaim_ec : (reclaim cfg i e s).ec = s.ec := by unfold reclaim skipNewLanes; dsimp only; split <;> split <;> simp
@[simp] theorem reclaim_fe : (reclaim cfg i e s).fe = s.fe := by unfold reclaim skipNewLanes; dsimp only; split <;> split <;> simp
@[simp] theorem reclaim_keep : (reclaim cfg i e s).keep = s.keep := by unfold reclaim skipNewLanes; dsimp only; split <;> split <;> simp
@[simp] theorem reclaim_su : (reclaim cfg i e s).su = s.su := by unfold reclaim skipNewLanes; dsimp only; split <;> split <;> simp
@[simp] theorem reclaim_lc : (reclaim cfg i e s).lc = s.lc := by unfold reclaim skipNewLanes; dsimp only; split <;> split <;> simp
@[simp] theorem reclaim_src : (reclaim cfg i e s).src = s.src := by unfold reclaim skipNewLanes; dsimp only; split <;> split <;> simp
@[simp] theorem reclaim_pending : (reclaim cfg i e s).pending = s.pending := by unfold reclaim skipNewLanes; dsimp only; split <;> split <;> simp
end

section
variable (s : State) (cfg : Startup) (i : Nat)
@[simp] theorem takeReclaim_du : (takeReclaim cfg s i).du = s.du := by
  unfold takeReclaim; split <;> [split; skip]
  all_goals simp
@[simp] theorem takeReclaim_ec : (takeReclaim cfg s i).ec = s.ec := by
  unfold takeReclaim; split <;> [split; skip]
  all_goals simp
@[simp] theorem takeReclaim_fe : (takeReclaim cfg s i).fe = s.fe := by
  unfold takeReclaim; split <;> [split; skip]
  all_goals simp
@[simp] theorem takeReclaim_keep : (takeReclaim cfg s i).keep = s.keep := by
  unfold takeReclaim; split <;> [split; skip]
  all_goals simp
@[simp] theorem takeReclaim_su : (takeReclaim cfg s i).su = s.su := by
  unfold takeReclaim; split <;> [split; skip]
  all_goals simp
@[simp] theorem takeReclaim_lc : (takeReclaim cfg s i).lc = s.lc := by
  unfold takeReclaim; split <;> [split; skip]
  all_goals simp
@[simp] theorem takeReclaim_src : (takeReclaim cfg s i).src = s.src := by
  unfold takeReclaim; split <;> [split; skip]
  all_goals simp
@[simp] theorem takeReclaim_pending : (takeReclaim cfg s i).pending = s.pending := by
  unfold takeReclaim; split <;> [split; skip]
  all_goals simp
end

section
variable (s : State) (cfg : Startup) (t : Nat)
@[simp] theorem takeAbsent_du : (takeAbsent cfg s t).du = s.du := by unfold takeAbsent; dsimp only; split <;> simp
@[simp] theorem takeAbsent_ec : (takeAbsent cfg s t).ec = s.ec := by unfold takeAbsent; dsimp only; split <;> simp
@[simp] theorem takeAbsent_fe : (takeAbsent cfg s t).fe = s.fe := by unfold takeAbsent; dsimp only; split <;> simp
@[simp] theorem takeAbsent_keep : (takeAbsent cfg s t).keep = s.keep := by unfold takeAbsent; dsimp only; split <;> simp
@[simp] theorem takeAbsent_ss : (takeAbsent cfg s t).ss = s.ss := by unfold takeAbsent; dsimp only; split <;> simp
@[simp] theorem takeAbsent_su : (takeAbsent cfg s t).su = s.su := by unfold takeAbsent; dsimp only; split <;> simp
@[simp] theorem takeAbsent_lc : (takeAbsent cfg s t).lc = s.lc := by unfold takeAbsent; dsimp only; split <;> simp
@[simp] theorem takeAbsent_src : (takeAbsent cfg s t).src = s.src := by unfold takeAbsent; dsimp only; split <;> simp
@[simp] theorem takeAbsent_pending : (takeAbsent cfg s t).pending = s.pending := by unfold takeAbsent; dsimp only; split <;> simp
end

section
variable (s : State) (cfg : Startup) (t : Nat)
@[simp] theorem takeExpire_du : (takeExpire cfg s t).du = s.du := by unfold takeExpire; dsimp only; split <;> simp
@[simp] theorem takeExpire_ec : (takeExpire cfg s t).ec = s.ec := by unfold takeExpire; dsimp only; split <;> simp
@[simp] theorem takeExpire_fe : (takeExpire cfg s t).fe = s.fe := by unfold takeExpire; dsimp only; split <;> simp
@[simp] theorem takeExpire_keep : (takeExpire cfg s t).keep = s.keep := by unfold takeExpire; dsimp only; split <;> simp
@[simp] theorem takeExpire_ss : (takeExpire cfg s t).ss = s.ss := by unfold takeExpire; dsimp only; split <;> simp
@[simp] theorem takeExpire_su : (takeExpire cfg s t).su = s.su := by unfold takeExpire; dsimp only; split <;> simp
@[simp] theorem takeExpire_lc : (takeExpire cfg s t).lc = s.lc := by unfold takeExpire; dsimp only; split <;> simp
@[simp] theorem takeExpire_src : (takeExpire cfg s t).src = s.src := by unfold takeExpire; dsimp only; split <;> simp
@[simp] theorem takeExpire_pending : (takeExpire cfg s t).pending = s.pending := by unfold takeExpire; dsimp only; split <;> simp
end

section
variable (s : State)
@[simp] theorem takeSettleEnd_du : (takeSettleEnd s).du = s.du := by unfold takeSettleEnd; split <;> rfl
@[simp] theorem takeSettleEnd_fe : (takeSettleEnd s).fe = s.fe := by unfold takeSettleEnd; split <;> rfl
@[simp] theorem takeSettleEnd_keep : (takeSettleEnd s).keep = s.keep := by unfold takeSettleEnd; split <;> rfl
@[simp] theorem takeSettleEnd_tt : (takeSettleEnd s).tt = s.tt := by unfold takeSettleEnd; split <;> rfl
@[simp] theorem takeSettleEnd_nl : (takeSettleEnd s).nl = s.nl := by unfold takeSettleEnd; split <;> rfl
@[simp] theorem takeSettleEnd_ss : (takeSettleEnd s).ss = s.ss := by unfold takeSettleEnd; split <;> rfl
@[simp] theorem takeSettleEnd_su : (takeSettleEnd s).su = s.su := by unfold takeSettleEnd; split <;> rfl
@[simp] theorem takeSettleEnd_lc : (takeSettleEnd s).lc = s.lc := by unfold takeSettleEnd; split <;> rfl
@[simp] theorem takeSettleEnd_src : (takeSettleEnd s).src = s.src := by unfold takeSettleEnd; split <;> rfl
@[simp] theorem takeSettleEnd_pending : (takeSettleEnd s).pending = s.pending := by unfold takeSettleEnd; split <;> rfl
end

section
variable (s : State)
@[simp] theorem takeHeld_du : (takeHeld s).du = s.du := by unfold takeHeld; split <;> rfl
@[simp] theorem takeHeld_ec : (takeHeld s).ec = s.ec := by unfold takeHeld; split <;> rfl
@[simp] theorem takeHeld_fe : (takeHeld s).fe = s.fe := by unfold takeHeld; split <;> rfl
@[simp] theorem takeHeld_keep : (takeHeld s).keep = s.keep := by unfold takeHeld; split <;> rfl
@[simp] theorem takeHeld_tt : (takeHeld s).tt = s.tt := by unfold takeHeld; split <;> rfl
@[simp] theorem takeHeld_nl : (takeHeld s).nl = s.nl := by unfold takeHeld; split <;> rfl
@[simp] theorem takeHeld_ss : (takeHeld s).ss = s.ss := by unfold takeHeld; split <;> rfl
@[simp] theorem takeHeld_lc : (takeHeld s).lc = s.lc := by unfold takeHeld; split <;> rfl
@[simp] theorem takeHeld_src : (takeHeld s).src = s.src := by unfold takeHeld; split <;> rfl
@[simp] theorem takeHeld_pending : (takeHeld s).pending = s.pending := by unfold takeHeld; split <;> rfl
end

section
variable (s : State)
@[simp] theorem takeLost_du : (takeLost s).du = s.du := by unfold takeLost; split <;> rfl
@[simp] theorem takeLost_ec : (takeLost s).ec = s.ec := by unfold takeLost; split <;> rfl
@[simp] theorem takeLost_fe : (takeLost s).fe = s.fe := by unfold takeLost; split <;> rfl
@[simp] theorem takeLost_keep : (takeLost s).keep = s.keep := by unfold takeLost; split <;> rfl
@[simp] theorem takeLost_tt : (takeLost s).tt = s.tt := by unfold takeLost; split <;> rfl
@[simp] theorem takeLost_nl : (takeLost s).nl = s.nl := by unfold takeLost; split <;> rfl
@[simp] theorem takeLost_ss : (takeLost s).ss = s.ss := by unfold takeLost; split <;> rfl
@[simp] theorem takeLost_lc : (takeLost s).lc = s.lc := by unfold takeLost; split <;> rfl
@[simp] theorem takeLost_src : (takeLost s).src = s.src := by unfold takeLost; split <;> rfl
@[simp] theorem takeLost_pending : (takeLost s).pending = s.pending := by unfold takeLost; split <;> rfl
end

section
variable (s : State) (cfg : Startup)
@[simp] theorem takeAged_du : (takeAged cfg s).du = s.du := by
  unfold takeAged
  simp only [takeLost_du, takeHeld_du, takeSettleEnd_du]
  rw [foldl_keeps (fun s : State => s.du) _ (fun s t => takeExpire_du s cfg t),
    foldl_keeps (fun s : State => s.du) _ (fun s t => takeAbsent_du s cfg t),
    foldl_keeps (fun s : State => s.du) _ (fun s i => takeReclaim_du s cfg i)]
@[simp] theorem takeAged_fe : (takeAged cfg s).fe = s.fe := by
  unfold takeAged
  simp only [takeLost_fe, takeHeld_fe, takeSettleEnd_fe]
  rw [foldl_keeps (fun s : State => s.fe) _ (fun s t => takeExpire_fe s cfg t),
    foldl_keeps (fun s : State => s.fe) _ (fun s t => takeAbsent_fe s cfg t),
    foldl_keeps (fun s : State => s.fe) _ (fun s i => takeReclaim_fe s cfg i)]
@[simp] theorem takeAged_keep : (takeAged cfg s).keep = s.keep := by
  unfold takeAged
  simp only [takeLost_keep, takeHeld_keep, takeSettleEnd_keep]
  rw [foldl_keeps (fun s : State => s.keep) _ (fun s t => takeExpire_keep s cfg t),
    foldl_keeps (fun s : State => s.keep) _ (fun s t => takeAbsent_keep s cfg t),
    foldl_keeps (fun s : State => s.keep) _ (fun s i => takeReclaim_keep s cfg i)]
@[simp] theorem takeAged_lc : (takeAged cfg s).lc = s.lc := by
  unfold takeAged
  simp only [takeLost_lc, takeHeld_lc, takeSettleEnd_lc]
  rw [foldl_keeps (fun s : State => s.lc) _ (fun s t => takeExpire_lc s cfg t),
    foldl_keeps (fun s : State => s.lc) _ (fun s t => takeAbsent_lc s cfg t),
    foldl_keeps (fun s : State => s.lc) _ (fun s i => takeReclaim_lc s cfg i)]
@[simp] theorem takeAged_src : (takeAged cfg s).src = s.src := by
  unfold takeAged
  simp only [takeLost_src, takeHeld_src, takeSettleEnd_src]
  rw [foldl_keeps (fun s : State => s.src) _ (fun s t => takeExpire_src s cfg t),
    foldl_keeps (fun s : State => s.src) _ (fun s t => takeAbsent_src s cfg t),
    foldl_keeps (fun s : State => s.src) _ (fun s i => takeReclaim_src s cfg i)]
@[simp] theorem takeAged_pending : (takeAged cfg s).pending = s.pending := by
  unfold takeAged
  simp only [takeLost_pending, takeHeld_pending, takeSettleEnd_pending]
  rw [foldl_keeps (fun s : State => s.pending) _ (fun s t => takeExpire_pending s cfg t),
    foldl_keeps (fun s : State => s.pending) _ (fun s t => takeAbsent_pending s cfg t),
    foldl_keeps (fun s : State => s.pending) _ (fun s i => takeReclaim_pending s cfg i)]
end

section
variable (s : State)
@[simp] theorem catchUp_fe : (catchUp s).fe = s.fe := by unfold catchUp; split <;> simp
@[simp] theorem catchUp_pending : (catchUp s).pending = s.pending := by unfold catchUp; split <;> simp
end

section
variable (s : State)
@[simp] theorem catchTrigger_fe : (catchTrigger s).fe = s.fe := by unfold catchTrigger; split <;> simp
@[simp] theorem catchTrigger_pending : (catchTrigger s).pending = s.pending := by unfold catchTrigger; split <;> simp
end

section
variable (s : State) (cfg : Startup) (r : ExpectedRow)
@[simp] theorem expectRow_du : (expectRow cfg r s).du = s.du := by
  unfold expectRow; split <;> [skip; split]
  all_goals simp
@[simp] theorem expectRow_ec : (expectRow cfg r s).ec = s.ec := by
  unfold expectRow; split <;> [skip; split]
  all_goals simp
@[simp] theorem expectRow_keep : (expectRow cfg r s).keep = s.keep := by
  unfold expectRow; split <;> [skip; split]
  all_goals simp
@[simp] theorem expectRow_nl : (expectRow cfg r s).nl = s.nl := by
  unfold expectRow; split <;> [skip; split]
  all_goals simp
@[simp] theorem expectRow_su : (expectRow cfg r s).su = s.su := by
  unfold expectRow; split <;> [skip; split]
  all_goals simp
@[simp] theorem expectRow_src : (expectRow cfg r s).src = s.src := by
  unfold expectRow; split <;> [skip; split]
  all_goals simp
@[simp] theorem expectRow_pending : (expectRow cfg r s).pending = s.pending := by
  unfold expectRow; split <;> [skip; split]
  all_goals simp
end

section
variable (s : State)
@[simp] theorem takeNextRow_du : (takeNextRow s).du = s.du := by unfold takeNextRow; split <;> rfl
@[simp] theorem takeNextRow_ec : (takeNextRow s).ec = s.ec := by unfold takeNextRow; split <;> rfl
@[simp] theorem takeNextRow_keep : (takeNextRow s).keep = s.keep := by unfold takeNextRow; split <;> rfl
@[simp] theorem takeNextRow_tt : (takeNextRow s).tt = s.tt := by unfold takeNextRow; split <;> rfl
@[simp] theorem takeNextRow_nl : (takeNextRow s).nl = s.nl := by unfold takeNextRow; split <;> rfl
@[simp] theorem takeNextRow_ss : (takeNextRow s).ss = s.ss := by unfold takeNextRow; split <;> rfl
@[simp] theorem takeNextRow_su : (takeNextRow s).su = s.su := by unfold takeNextRow; split <;> rfl
@[simp] theorem takeNextRow_lc : (takeNextRow s).lc = s.lc := by unfold takeNextRow; split <;> rfl
@[simp] theorem takeNextRow_src : (takeNextRow s).src = s.src := by unfold takeNextRow; split <;> rfl
@[simp] theorem takeNextRow_pending : (takeNextRow s).pending = s.pending := by unfold takeNextRow; split <;> rfl
end

section
variable (cfg : Startup) (n : List ExpectedRow)
@[simp] theorem olderAbsent_du (o : List ExpectedRow) (s : State) : (olderAbsent cfg n o s).du = s.du := by
  induction o generalizing s with
  | nil => rfl
  | cons e o ih => simp [olderAbsent, ih]
@[simp] theorem olderAbsent_ec (o : List ExpectedRow) (s : State) : (olderAbsent cfg n o s).ec = s.ec := by
  induction o generalizing s with
  | nil => rfl
  | cons e o ih => simp [olderAbsent, ih]
@[simp] theorem olderAbsent_keep (o : List ExpectedRow) (s : State) : (olderAbsent cfg n o s).keep = s.keep := by
  induction o generalizing s with
  | nil => rfl
  | cons e o ih => simp [olderAbsent, ih]
@[simp] theorem olderAbsent_nl (o : List ExpectedRow) (s : State) : (olderAbsent cfg n o s).nl = s.nl := by
  induction o generalizing s with
  | nil => rfl
  | cons e o ih => simp [olderAbsent, ih]
@[simp] theorem olderAbsent_su (o : List ExpectedRow) (s : State) : (olderAbsent cfg n o s).su = s.su := by
  induction o generalizing s with
  | nil => rfl
  | cons e o ih => simp [olderAbsent, ih]
@[simp] theorem olderAbsent_src (o : List ExpectedRow) (s : State) : (olderAbsent cfg n o s).src = s.src := by
  induction o generalizing s with
  | nil => rfl
  | cons e o ih => simp [olderAbsent, ih]
@[simp] theorem olderAbsent_pending (o : List ExpectedRow) (s : State) : (olderAbsent cfg n o s).pending = s.pending := by
  induction o generalizing s with
  | nil => rfl
  | cons e o ih => simp [olderAbsent, ih]

/-- What the leaving of the older frames does to the Front End: `n` alone is expected afterwards. -/
theorem olderAbsent_fe (o : List ExpectedRow) (s : State) :
    (olderAbsent cfg n o s).fe = { s.fe with expected := if o = [] then s.fe.expected else n } := by
  induction o generalizing s with
  | nil => rfl
  | cons e o ih =>
    rw [olderAbsent, ih]
    by_cases h : o = [] <;> simp [h]
end

section
variable (s : State) (cfg : Startup) (m : ExpectedRow) (c : List RowCell) (o n : List ExpectedRow)
@[simp] theorem joinQueue_du : (joinQueue cfg m c o n s).du = s.du := by
  unfold joinQueue; dsimp only; split <;> simp
@[simp] theorem joinQueue_ec : (joinQueue cfg m c o n s).ec = s.ec := by
  unfold joinQueue; dsimp only; split <;> simp
@[simp] theorem joinQueue_keep : (joinQueue cfg m c o n s).keep = s.keep := by
  unfold joinQueue; dsimp only; split <;> simp
@[simp] theorem joinQueue_nl : (joinQueue cfg m c o n s).nl = s.nl := by
  unfold joinQueue; dsimp only; split <;> simp
@[simp] theorem joinQueue_su : (joinQueue cfg m c o n s).su = s.su := by
  unfold joinQueue; dsimp only; split <;> simp
@[simp] theorem joinQueue_src : (joinQueue cfg m c o n s).src = s.src := by
  unfold joinQueue; dsimp only; split <;> simp
@[simp] theorem joinQueue_pending : (joinQueue cfg m c o n s).pending = s.pending := by
  unfold joinQueue; dsimp only; split <;> simp

/-- What a matched row does to the Front End: the frame and every older one leave the list, and the row joins a queue
that has room (R37, R41). -/
theorem joinQueue_fe :
    (joinQueue cfg m c o n s).fe = { s.fe with
      expected := n
      queue := if s.fe.queue.length < 4 then s.fe.queue ++ [⟨m.frame, m.cls, c⟩] else s.fe.queue } := by
  unfold joinQueue
  by_cases h : s.fe.queue.length < 4 <;> simp [olderAbsent_fe, Config.frameQueue, h]
end

section
variable (s : State) (cfg : Startup) (row : SensorRow)
@[simp] theorem matchRow_du : (matchRow cfg row s).du = s.du := by unfold matchRow; split <;> simp
@[simp] theorem matchRow_ec : (matchRow cfg row s).ec = s.ec := by unfold matchRow; split <;> simp
@[simp] theorem matchRow_keep : (matchRow cfg row s).keep = s.keep := by unfold matchRow; split <;> simp
@[simp] theorem matchRow_nl : (matchRow cfg row s).nl = s.nl := by unfold matchRow; split <;> simp
@[simp] theorem matchRow_su : (matchRow cfg row s).su = s.su := by unfold matchRow; split <;> simp
@[simp] theorem matchRow_src : (matchRow cfg row s).src = s.src := by unfold matchRow; split <;> simp
@[simp] theorem matchRow_pending : (matchRow cfg row s).pending = s.pending := by unfold matchRow; split <;> simp
end

section
variable (s : State) (cfg : Startup)
@[simp] theorem hop_du : (hop cfg s).du = s.du := rfl
@[simp] theorem hop_fe : (hop cfg s).fe = s.fe := rfl
@[simp] theorem hop_keep : (hop cfg s).keep = s.keep := rfl
@[simp] theorem hop_tt : (hop cfg s).tt = s.tt := rfl
@[simp] theorem hop_nl : (hop cfg s).nl = s.nl := rfl
@[simp] theorem hop_ss : (hop cfg s).ss = s.ss := rfl
@[simp] theorem hop_su : (hop cfg s).su = s.su := rfl
@[simp] theorem hop_src : (hop cfg s).src = s.src := rfl
@[simp] theorem hop_pending : (hop cfg s).pending = s.pending := rfl
end

section
variable (s : State)
@[simp] theorem answerAmbient_du : (answerAmbient s).du = s.du := rfl
@[simp] theorem answerAmbient_ec : (answerAmbient s).ec = s.ec := rfl
@[simp] theorem answerAmbient_fe : (answerAmbient s).fe = s.fe := rfl
@[simp] theorem answerAmbient_keep : (answerAmbient s).keep = s.keep := rfl
@[simp] theorem answerAmbient_tt : (answerAmbient s).tt = s.tt := rfl
@[simp] theorem answerAmbient_nl : (answerAmbient s).nl = s.nl := rfl
@[simp] theorem answerAmbient_su : (answerAmbient s).su = s.su := rfl
@[simp] theorem answerAmbient_src : (answerAmbient s).src = s.src := rfl
@[simp] theorem answerAmbient_pending : (answerAmbient s).pending = s.pending := rfl
end

section
variable (s : State) (cfg : Startup)
@[simp] theorem interference_du : (interference cfg s).du = s.du := by unfold interference; dsimp only; split <;> simp
@[simp] theorem interference_fe : (interference cfg s).fe = s.fe := by unfold interference; dsimp only; split <;> simp
@[simp] theorem interference_keep : (interference cfg s).keep = s.keep := by unfold interference; dsimp only; split <;> simp
@[simp] theorem interference_tt : (interference cfg s).tt = s.tt := by unfold interference; dsimp only; split <;> simp
@[simp] theorem interference_nl : (interference cfg s).nl = s.nl := by unfold interference; dsimp only; split <;> simp
@[simp] theorem interference_su : (interference cfg s).su = s.su := by unfold interference; dsimp only; split <;> simp
@[simp] theorem interference_src : (interference cfg s).src = s.src := by unfold interference; dsimp only; split <;> simp
@[simp] theorem interference_pending : (interference cfg s).pending = s.pending := by unfold interference; dsimp only; split <;> simp
end

section
variable (s : State) (cfg : Startup) (n : Nat)
@[simp] theorem takeStrayCount_du : (takeStrayCount cfg n s).du = s.du := by
  unfold takeStrayCount; split <;> [skip; split]
  all_goals simp
@[simp] theorem takeStrayCount_fe : (takeStrayCount cfg n s).fe = s.fe := by
  unfold takeStrayCount; split <;> [skip; split]
  all_goals simp
@[simp] theorem takeStrayCount_keep : (takeStrayCount cfg n s).keep = s.keep := by
  unfold takeStrayCount; split <;> [skip; split]
  all_goals simp
@[simp] theorem takeStrayCount_tt : (takeStrayCount cfg n s).tt = s.tt := by
  unfold takeStrayCount; split <;> [skip; split]
  all_goals simp
@[simp] theorem takeStrayCount_nl : (takeStrayCount cfg n s).nl = s.nl := by
  unfold takeStrayCount; split <;> [skip; split]
  all_goals simp
@[simp] theorem takeStrayCount_su : (takeStrayCount cfg n s).su = s.su := by
  unfold takeStrayCount; split <;> [skip; split]
  all_goals simp
@[simp] theorem takeStrayCount_src : (takeStrayCount cfg n s).src = s.src := by
  unfold takeStrayCount; split <;> [skip; split]
  all_goals simp
@[simp] theorem takeStrayCount_pending : (takeStrayCount cfg n s).pending = s.pending := by
  unfold takeStrayCount; split <;> [skip; split]
  all_goals simp
end

section
variable (s : State) (cfg : Startup) (k : Nat) (b : Block)
@[simp] theorem completeBank_du : (completeBank cfg k b s).du = s.du := by unfold completeBank; dsimp only; split <;> simp
@[simp] theorem completeBank_ec : (completeBank cfg k b s).ec = s.ec := by unfold completeBank; dsimp only; split <;> simp
@[simp] theorem completeBank_fe : (completeBank cfg k b s).fe = s.fe := by unfold completeBank; dsimp only; split <;> simp
@[simp] theorem completeBank_keep : (completeBank cfg k b s).keep = s.keep := by unfold completeBank; dsimp only; split <;> simp
@[simp] theorem completeBank_nl : (completeBank cfg k b s).nl = s.nl := by unfold completeBank; dsimp only; split <;> simp
@[simp] theorem completeBank_su : (completeBank cfg k b s).su = s.su := by unfold completeBank; dsimp only; split <;> simp
@[simp] theorem completeBank_src : (completeBank cfg k b s).src = s.src := by unfold completeBank; dsimp only; split <;> simp
@[simp] theorem completeBank_pending : (completeBank cfg k b s).pending = s.pending := by unfold completeBank; dsimp only; split <;> simp
end

end Sys2Proof.Machine
end

