-- ==== Sys2Proof/Laws/Blocks.lean ====
section
/-! SUPPORT. What reporting, settling and closing a block can do to the state: one frame for each operation, and what
happens to the track entries. -/

namespace Sys2Proof.Machine

/-! ### Tables that agree entry by entry -/

/-- Two tables have their entries at the same indices, each pair in relation. -/
def Entrywise (R : Entry → Entry → Prop) (a b : List (Option Entry)) : Prop := List.Forall₂ (Option.Rel R) a b

theorem Entrywise.refl {R : Entry → Entry → Prop} (h : ∀ e, R e e) : ∀ a, Entrywise R a a
  | [] => .nil
  | none :: a => .cons .none (Entrywise.refl h a)
  | some e :: a => .cons (.some (h e)) (Entrywise.refl h a)

theorem Entrywise.trans {R S T : Entry → Entry → Prop} (h : ∀ a b c, R a b → S b c → T a c) {a b c}
    (h1 : Entrywise R a b) (h2 : Entrywise S b c) : Entrywise T a c := by
  induction h1 generalizing c with
  | nil => cases h2; exact .nil
  | cons x _ ih =>
    cases h2 with
    | cons y ys =>
      refine .cons ?_ (ih ys)
      cases x <;> cases y
      · exact .some (h _ _ _ ‹_› ‹_›)
      · exact .none

theorem Entrywise.map {R : Entry → Entry → Prop} (g : Entry → Entry) (h : ∀ e, R e (g e)) :
    ∀ a, Entrywise R a (a.map fun p => p.map g)
  | [] => .nil
  | none :: a => .cons .none (Entrywise.map g h a)
  | some e :: a => .cons (.some (h e)) (Entrywise.map g h a)

theorem Entrywise.set {R : Entry → Entry → Prop} (hr : ∀ e, R e e) {e e' : Entry} (h : R e e') :
    ∀ {a : List (Option Entry)} {i : Nat}, a.getD i none = some e → Entrywise R a (a.set i (some e'))
  | [], i, hi => by simp at hi
  | p :: a, 0, hi => by
    have hp : p = some e := hi
    subst hp
    exact .cons (.some h) (Entrywise.refl hr a)
  | none :: a, i + 1, hi => .cons .none (Entrywise.set hr h (by simpa using hi))
  | some d :: a, i + 1, hi => .cons (.some (hr d)) (Entrywise.set hr h (by simpa using hi))

/-- What entrywise agreement says of the entry at an index. -/
theorem Entrywise.entry {R : Entry → Entry → Prop} {t u : TrackTable} (h : Entrywise R t.entries u.entries) (i : Nat) :
    (t.entry i = none → u.entry i = none) ∧ ∀ e, t.entry i = some e → ∃ e', u.entry i = some e' ∧ R e e' := by
  unfold TrackTable.entry
  generalize t.entries = a at h
  generalize u.entries = b at h
  induction h generalizing i with
  | nil => simp
  | cons x _ ih =>
    cases i with
    | zero => cases x <;> simp_all
    | succ n => simpa using ih n

theorem Entrywise.length_eq {R : Entry → Entry → Prop} {a b} (h : Entrywise R a b) : b.length = a.length :=
  (List.Forall₂.length_eq h).symm

/-- Entries that agree but for a reported origin, which is cleared. -/
def SameButOrigin (e e' : Entry) : Prop :=
  e' = { e with origin := e'.origin } ∧ (e'.origin = e.origin ∨ e'.origin = none)

theorem SameButOrigin.refl (e : Entry) : SameButOrigin e e := ⟨rfl, .inl rfl⟩

theorem SameButOrigin.trans (a b c : Entry) (h1 : SameButOrigin a b) (h2 : SameButOrigin b c) : SameButOrigin a c := by
  refine ⟨by rw [h2.1, h1.1], ?_⟩
  rcases h2.2 with h | h
  · rw [h]; exact h1.2
  · exact .inr h

/-- A fold of steps, each in a relation that is reflexive and transitive, is in it. -/
theorem foldl_related {α β : Type} (P : α → α → Prop) (hr : ∀ s, P s s) (ht : ∀ a b c, P a b → P b c → P a c)
    (f : α → β → α) (h : ∀ s a, P s (f s a)) : ∀ (l : List β) (s : α), P s (l.foldl f s)
  | [], s => hr s
  | a :: l, s => ht _ _ _ (h s a) (foldl_related P hr ht f h l (f s a))

/-! ### Reporting -/

/-- What reporting lanes can change: the entries' origins and the Link Controller. -/
def ReportFrame (s t : State) : Prop :=
  t = { s with tt := { s.tt with entries := t.tt.entries }, lc := t.lc }
    ∧ Entrywise SameButOrigin s.tt.entries t.tt.entries

theorem ReportFrame.refl (s : State) : ReportFrame s s := ⟨rfl, Entrywise.refl SameButOrigin.refl _⟩

theorem ReportFrame.trans (a b c : State) (h1 : ReportFrame a b) (h2 : ReportFrame b c) : ReportFrame a c := by
  refine ⟨?_, Entrywise.trans SameButOrigin.trans h1.2 h2.2⟩
  have e1 := h1.1
  have e2 := h2.1
  rw [e2]
  simp only
  rw [e1]

theorem reportLane_frame (cfg : Startup) (b : Block) (r : Lane → LaneResult) (s : State) (l : Lane) :
    ReportFrame s (reportLane cfg b r s l) := by
  unfold reportLane
  split
  · exact .refl s
  · dsimp only
    have hq : ReportFrame s (queueSighting (sightingOf cfg b (r l) l) s).1 := by
      unfold queueSighting
      split <;> exact ⟨rfl, Entrywise.refl SameButOrigin.refl _⟩
    split
    · refine ReportFrame.trans _ _ _ hq ⟨rfl, ?_⟩
      refine Entrywise.map _ (fun e => ?_) _
      split
      · exact ⟨rfl, .inr rfl⟩
      · exact .refl e
    · exact hq

theorem reportBlock_frame (cfg : Startup) (b : Block) (r : Lane → LaneResult) (s : State) :
    ReportFrame s (reportBlock cfg b r s) :=
  foldl_related ReportFrame .refl .trans _ (fun s l => reportLane_frame cfg b r s l) _ s

/-! ### Settling and closing -/

/-- What settling closed blocks can change: besides a report, the banks and the Wear Unit. -/
def SettleFrame (s t : State) : Prop :=
  t = { s with
      tt := { s.tt with entries := t.tt.entries }
      ss := { s.ss with banks := t.ss.banks, computing := t.ss.computing }
      lc := t.lc }
    ∧ Entrywise SameButOrigin s.tt.entries t.tt.entries

theorem SettleFrame.refl (s : State) : SettleFrame s s := ⟨rfl, Entrywise.refl SameButOrigin.refl _⟩

theorem SettleFrame.trans (a b c : State) (h1 : SettleFrame a b) (h2 : SettleFrame b c) : SettleFrame a c := by
  refine ⟨?_, Entrywise.trans SameButOrigin.trans h1.2 h2.2⟩
  have e1 := h1.1
  have e2 := h2.1
  rw [e2]
  simp only
  rw [e1]

theorem startCompute_frame (k : Nat) (b : Block) (s : State) : SettleFrame s (startCompute k b s) := by
  unfold startCompute
  split <;> exact ⟨rfl, Entrywise.refl SameButOrigin.refl _⟩

theorem ReportFrame.settle {s t : State} (h : ReportFrame s t) : SettleFrame s t := by
  refine ⟨?_, h.2⟩
  have e := h.1
  rw [e]

theorem settleBlock_frame (cfg : Startup) (s : State) (b : Block) : SettleFrame s (settleBlock cfg s b) := by
  unfold settleBlock
  dsimp only
  split
  · exact (reportBlock_frame cfg _ _ s).settle
  · split
    · exact ⟨rfl, Entrywise.refl SameButOrigin.refl _⟩
    · split
      · exact startCompute_frame _ _ s
      · exact ⟨rfl, Entrywise.refl SameButOrigin.refl _⟩

/-- What settling all that owe no more frames can change. -/
theorem settleReady_frame (cfg : Startup) (s : State) :
    settleReady cfg s =
        { s with
          tt := { s.tt with entries := (settleReady cfg s).tt.entries }
          ss := { s.ss with
            settling := s.ss.settling.filter fun b => owesFrames s b
            banks := (settleReady cfg s).ss.banks, computing := (settleReady cfg s).ss.computing }
          lc := (settleReady cfg s).lc }
      ∧ Entrywise SameButOrigin s.tt.entries (settleReady cfg s).tt.entries := by
  have h := foldl_related SettleFrame .refl .trans (settleBlock cfg) (settleBlock_frame cfg)
    (s.ss.settling.filter fun b => !owesFrames s b)
    (s.setSs { s.ss with settling := s.ss.settling.filter fun b => owesFrames s b })
  refine ⟨?_, h.2⟩
  have e := h.1
  unfold settleReady
  rw [e]
  rfl

/-- With no closed block waiting, nothing settles. -/
theorem settleReady_of_nil (cfg : Startup) (s : State) (h : s.ss.settling = []) : settleReady cfg s = s := by
  unfold settleReady
  rw [h]
  simp only [List.filter_nil, List.foldl_nil]
  rw [← h]
  rfl

/-- What closing the open block can change: no block is left open, and the entries keep all but a reported origin, and
their lanes, which become none where a block was open. -/
theorem closeBlock_frame (cfg : Startup) (f : Word32) (s : State) :
    closeBlock cfg f s =
        { s with
          tt := { s.tt with entries := (closeBlock cfg f s).tt.entries }
          ss := { s.ss with
            openBlock := none, settling := (closeBlock cfg f s).ss.settling
            banks := (closeBlock cfg f s).ss.banks, computing := (closeBlock cfg f s).ss.computing }
          lc := (closeBlock cfg f s).lc }
      ∧ Entrywise (fun e e' => e' = { e with origin := e'.origin, lane := e'.lane }
          ∧ (s.ss.openBlock ≠ none → e'.lane = none) ∧ (e'.origin = e.origin ∨ e'.origin = none))
          s.tt.entries (closeBlock cfg f s).tt.entries := by
  unfold closeBlock
  split
  · rename_i h
    refine ⟨?_, Entrywise.refl (fun e => ⟨rfl, fun h' => absurd h h', .inl rfl⟩) _⟩
    simp only
    rw [← h]
  · rename_i b hb
    dsimp only
    have hl : Entrywise (fun e e' : Entry => e' = { e with lane := none }) s.tt.entries
        (s.tt.entries.map fun p => p.map fun e => { e with lane := none }) := by
      exact Entrywise.map (R := fun e e' : Entry => e' = { e with lane := none }) _ (fun _ => rfl) _
    have hcomp : ∀ a b c : Entry, b = { a with lane := none } → SameButOrigin b c →
        c = { a with origin := c.origin, lane := c.lane } ∧ (s.ss.openBlock ≠ none → c.lane = none)
          ∧ (c.origin = a.origin ∨ c.origin = none) := by
      intro a b c h1 h2
      refine ⟨by rw [h2.1, h1], fun _ => by rw [h2.1, h1], ?_⟩
      have h := h2.2
      rw [h1] at h
      exact h
    split
    · have h := settleBlock_frame cfg ((s.setSs { s.ss with openBlock := none }).setTt
        { s.tt with entries := s.tt.entries.map fun p => p.map fun e => { e with lane := none } })
        (countOwed ((s.setSs { s.ss with openBlock := none }).setTt
        { s.tt with entries := s.tt.entries.map fun p => p.map fun e => { e with lane := none } })
        (b.close f s.du.distance))
      refine ⟨?_, Entrywise.trans hcomp hl h.2⟩
      have e := h.1
      rw [e]
      rfl
    · split
      · have h := settleBlock_frame cfg ((s.setSs { s.ss with openBlock := none }).setTt
          { s.tt with entries := s.tt.entries.map fun p => p.map fun e => { e with lane := none } })
          (b.close f s.du.distance)
        refine ⟨?_, Entrywise.trans hcomp hl h.2⟩
        have e := h.1
        rw [e]
        rfl
      · exact ⟨rfl, Entrywise.trans hcomp hl (Entrywise.refl SameButOrigin.refl _)⟩

/-- With no block open a close does nothing. -/
theorem closeBlock_of_none (cfg : Startup) (f : Word32) (s : State) (h : s.ss.openBlock = none) :
    closeBlock cfg f s = s := by
  unfold closeBlock
  rw [h]

/-- A closed block with a bank and lanes that still waits for rows is held settling; the banks and the Link Controller
are as they were. -/
theorem closeBlock_settling (cfg : Startup) (f : Word32) (s : State) (b : Block) (hb : s.ss.openBlock = some b)
    (hk : b.bank ≠ none) (hl : b.lanes ≠ []) (ho : owesFrames s (b.close f s.du.distance) = true) :
    closeBlock cfg f s =
      { s with
        tt := { s.tt with entries := s.tt.entries.map fun p => p.map fun e => { e with lane := none } }
        ss := { s.ss with openBlock := none, settling := s.ss.settling ++ [b.close f s.du.distance] } } := by
  unfold closeBlock
  rw [hb]
  dsimp only
  rw [if_neg (show ¬ (b.close f s.du.distance).bank = none from hk)]
  have ho' : ¬((b.close f s.du.distance).lanes = [] ∨
      owesFrames ((s.setSs { s.ss with openBlock := none }).setTt
        { s.tt with entries := s.tt.entries.map fun p => p.map fun e => { e with lane := none } })
        (b.close f s.du.distance) = false) := by
    rintro (h | h)
    · exact hl h
    · have h' : owesFrames s (b.close f s.du.distance) = false := h
      rw [ho] at h'
      cases h'
  rw [if_neg ho']
  rfl

/-! ### Absent frames -/

/-- A natural end can change the entries' lanes, the Strip Store and the Link Controller. -/
theorem naturalEnd_frame (cfg : Startup) (f : Word32) (s : State) :
    naturalEnd cfg f s =
      { s with
        tt := { s.tt with entries := (naturalEnd cfg f s).tt.entries }
        ss := (naturalEnd cfg f s).ss
        lc := (naturalEnd cfg f s).lc } := by
  unfold naturalEnd
  split
  · split
    · rw [(closeBlock_frame cfg f s).1]
    · rfl
  · rfl

/-- So can an absent frame. -/
theorem frameAbsent_frame (cfg : Startup) (s : State) (f : Word32) :
    frameAbsent cfg s f =
      { s with
        tt := { s.tt with entries := (frameAbsent cfg s f).tt.entries }
        ss := (frameAbsent cfg s f).ss
        lc := (frameAbsent cfg s f).lc } := by
  unfold frameAbsent
  dsimp only
  rw [naturalEnd_frame]
  split <;> rfl

end Sys2Proof.Machine
end

