-- ==== Sys2Proof/Laws/CatchUp.lean ====
section
/-! SUPPORT. Where nothing is due, nothing is caught up; where a trigger is due, it is taken. -/

namespace Sys2Proof.Machine

theorem nothingDue_iff (s : State) : nothingDue s = true ↔
    s.du.downCounter ≠ 0
      ∧ (∀ e, some e ∈ s.tt.entries → ¬(e.state = .yielded ∧ 80 ≤ e.yieldAge))
      ∧ (∀ r ∈ s.nl, ¬(r.state = .present ∧ 128 ≤ r.age) ∧ ¬(r.heldBack = true ∧ r.notTaking = 0))
      ∧ ¬(s.ec.state = .settling ∧ s.ec.settleCount = 0)
      ∧ ¬(s.su.state = .fresh ∧ 65 ≤ s.su.age)
      ∧ ¬(s.su.state ≠ .lost ∧ 1024 ≤ s.su.age) := by
  simp only [nothingDue, Bool.and_eq_true, bne_iff_ne, ne_eq, Bool.not_eq_true', Bool.and_eq_false_iff,
    beq_eq_false_iff_ne, decide_eq_false_iff_not, List.all_eq_true, and_assoc, bne_eq_false_iff_eq]
  refine and_congr_right fun _ => and_congr ?_ (and_congr ?_ (and_congr ?_ (and_congr ?_ ?_)))
  · constructor
    · intro h e he
      have := h _ he
      simpa [imp_iff_not_or] using this
    · intro h p hp
      match p with
      | none => rfl
      | some e => simpa [imp_iff_not_or] using h e hp
  · simp [imp_iff_not_or]
  · rw [not_and_or]
  · rw [not_and_or]
  · rw [not_and_or, not_not]

/-- An entry at an index is one of the table's entries. -/
theorem entry_mem {t : TrackTable} {i : Nat} {e : Entry} (h : t.entry i = some e) : some e ∈ t.entries := by
  unfold TrackTable.entry at h
  rw [List.getD_eq_getElem?_getD] at h
  cases hg : t.entries[i]? with
  | none => simp [hg] at h
  | some p =>
    rw [hg] at h
    exact h ▸ List.mem_of_getElem? hg

/-- A record of the Neighbour List is the reset record or one of the list's. -/
theorem neighbour_mem (s : State) (t : Nat) : s.neighbour t = .reset ∨ s.neighbour t ∈ s.nl := by
  match t with
  | 0 => exact .inl rfl
  | k + 1 =>
    show s.nl.getD k .reset = _ ∨ s.nl.getD k .reset ∈ s.nl
    rw [List.getD_eq_getElem?_getD]
    cases hg : s.nl[k]? with
    | none => exact .inl rfl
    | some r => exact .inr (List.mem_of_getElem? hg)

theorem foldl_of_fixed {α β : Type} (f : α → β → α) (a : α) (h : ∀ b, f a b = a) :
    ∀ l : List β, l.foldl f a = a
  | [] => rfl
  | b :: l => by rw [List.foldl_cons, h b]; exact foldl_of_fixed f a h l

theorem takeReclaim_of_not_due (cfg : Startup) (s : State) (i : Nat)
    (h : ∀ e, some e ∈ s.tt.entries → ¬(e.state = .yielded ∧ 80 ≤ e.yieldAge)) : takeReclaim cfg s i = s := by
  unfold takeReclaim
  split
  · rename_i e he
    exact if_neg (h e (entry_mem he))
  · rfl

theorem takeAbsent_of_not_due (cfg : Startup) (s : State) (t : Nat)
    (h : ∀ r ∈ s.nl, ¬(r.state = .present ∧ 128 ≤ r.age)) : takeAbsent cfg s t = s := by
  refine if_neg ?_
  rcases neighbour_mem s t with hr | hr
  · rw [hr]; simp [Neighbour.reset]
  · exact h _ hr

theorem takeExpire_of_not_due (cfg : Startup) (s : State) (t : Nat)
    (h : ∀ r ∈ s.nl, ¬(r.heldBack = true ∧ r.notTaking = 0)) : takeExpire cfg s t = s := by
  refine if_neg ?_
  rcases neighbour_mem s t with hr | hr
  · rw [hr]; simp [Neighbour.reset]
  · exact h _ hr

/-- In an OPERATING part with nothing due there is nothing to catch up (log 3). -/
theorem catchUp_of_quiet {cfg : Startup} {s : State} (h : Quiet cfg s) : catchUp s = s := by
  obtain ⟨hp, hd⟩ := h
  obtain ⟨h0, h1, h2, h3, h4, h5⟩ := (nothingDue_iff s).mp hd
  have ht : takeTrigger cfg s = s := if_neg (by simpa [triggerIsDue] using h0)
  unfold catchUp
  rw [hp]
  show takeAged cfg (takeTrigger cfg s) = s
  rw [ht]
  unfold takeAged
  rw [foldl_of_fixed _ _ (fun i => takeReclaim_of_not_due cfg s i h1),
    foldl_of_fixed _ _ (fun t => takeAbsent_of_not_due cfg s t fun r hr => (h2 r hr).1),
    foldl_of_fixed _ _ (fun t => takeExpire_of_not_due cfg s t fun r hr => (h2 r hr).2)]
  rw [show takeSettleEnd s = s from if_neg h3, show takeHeld s = s from if_neg h4]
  exact if_neg h5

/-- Outside OPERATING nothing is ever due. -/
theorem catchUp_of_not_operating {s : State} (h : s.src.part.isOperating = false) : catchUp s = s := by
  unfold catchUp
  split
  · rename_i cfg hc
    rw [hc] at h
    cases h
  · rfl

/-- With the down-counter above zero no trigger is due. -/
theorem catchTrigger_of_not_due {s : State} (h : s.du.downCounter ≠ 0) : catchTrigger s = s := by
  unfold catchTrigger
  split
  · exact if_neg (by simpa [triggerIsDue] using h)
  · rfl

/-- A due trigger is taken. -/
theorem catchTrigger_of_due {cfg : Startup} {s : State} (hp : s.src.part = .operating cfg)
    (h : s.du.downCounter = 0) : catchTrigger s = frameTrigger cfg s := by
  unfold catchTrigger
  rw [hp]
  exact if_pos (by simp [triggerIsDue, h])

end Sys2Proof.Machine
end

