-- ==== Sys2Proof/Laws/Queue.lean ====
section
/-! SUPPORT. What queuing a telegram, freeing an entry and starting a computation can do. -/

namespace Sys2Proof.Machine

/-! ### The transmit queue -/

/-- The place that `oldest` finds holds a telegram of the sort that is not in transmission. -/
theorem oldest_some {l : LinkController} {sort : Telegram → Bool} {i : Nat} (h : l.oldest sort = some i) :
    ∃ x, l.txQueue[i]? = some x ∧ sort x = true ∧ ¬(l.tx = .sending ∧ i = 0) := by
  unfold LinkController.oldest at h
  rw [Option.map_eq_some_iff] at h
  obtain ⟨⟨x, j⟩, h1, h2⟩ := h
  have h3 := List.find?_some h1
  have h4 := List.mem_of_find?_eq_some h1
  simp at h2; subst h2
  refine ⟨x, by simpa using List.mem_zipIdx_iff_getElem?.mp h4, ?_, ?_⟩
  · simp at h3; exact h3.1
  · simp at h3; rintro ⟨ha, hb⟩; exact h3.2.elim (fun h => h ha) (fun h => h hb)

/-- Where `oldest` finds none, every telegram of the sort is the one in transmission. -/
theorem oldest_none {l : LinkController} {sort : Telegram → Bool} (h : l.oldest sort = none) :
    ∀ i x, l.txQueue[i]? = some x → sort x = true → l.tx = .sending ∧ i = 0 := by
  unfold LinkController.oldest at h
  rw [Option.map_eq_none_iff, List.find?_eq_none] at h
  intro i x h1 h2
  have := h (x, i) (List.mem_zipIdx_iff_getElem?.mpr (by simpa using h1))
  simpa [h2] using this

/-- What makes a place the one that `oldest` finds. -/
theorem oldest_eq {l : LinkController} {sort : Telegram → Bool} {i : Nat} {x : Telegram} (h1 : l.txQueue[i]? = some x)
    (h2 : sort x = true) (h3 : ¬(l.tx = .sending ∧ i = 0))
    (h4 : ∀ j < i, ∀ y, l.txQueue[j]? = some y → sort y = true → l.tx = .sending ∧ j = 0) :
    l.oldest sort = some i := by
  cases ho : l.oldest sort with
  | none => exact absurd (oldest_none ho i x h1 h2) h3
  | some k =>
    unfold LinkController.oldest at ho
    rw [Option.map_eq_some_iff] at ho
    obtain ⟨⟨y, j⟩, a, b⟩ := ho
    simp at b; subst b
    rw [List.find?_eq_some_iff_getElem] at a
    obtain ⟨ha, n, hn, he, hbef⟩ := a
    simp at he hn ha
    obtain ⟨he1, he2⟩ := he
    subst he2
    congr 1
    by_contra hne
    rcases Nat.lt_or_gt_of_ne hne with h | h
    · have := h4 n h y (by rw [List.getElem?_eq_getElem hn]; simp [he1]) ha.1
      simp [this] at ha
    · have hi : i < l.txQueue.length := by
        by_contra hh; rw [List.getElem?_eq_none (by omega)] at h1; cases h1
      have := hbef i h
      rw [List.getElem?_eq_getElem hi] at h1
      simp at this h1
      rw [h1] at this
      exact this.elim (fun h => by rw [h2] at h; cases h) h3

/-- What makes `oldest` find none. -/
theorem oldest_eq_none {l : LinkController} {sort : Telegram → Bool}
    (h : ∀ i x, l.txQueue[i]? = some x → sort x = true → l.tx = .sending ∧ i = 0) : l.oldest sort = none := by
  cases ho : l.oldest sort with
  | none => rfl
  | some k =>
    obtain ⟨x, a, b, c⟩ := oldest_some ho
    exact absurd (h k x a b) c

/-- A telegram that joins the tail (R174, R179). -/
theorem join_eq (l : LinkController) (x : Telegram) :
    l.join x =
      { l with txQueue := l.txQueue ++ [x], tx := if l.tx = .idle then .contending false else l.tx } := by
  unfold LinkController.join LinkController.takeHead
  by_cases h : l.tx = .idle <;> simp [h]

/-- A telegram that displaces another (R174, R180). -/
theorem displace_eq (l : LinkController) (i : Nat) (x : Telegram) :
    l.displace i x =
      { l with
        txQueue := l.txQueue.eraseIdx i ++ [x]
        tx := if i = 0 then .contending false else l.tx, lineOut := if i = 0 then [] else l.lineOut } := by
  unfold LinkController.displace LinkController.stopDriving
  by_cases h : i = 0 <;> simp [h]

/-- Two telegrams of a sort are two of the queue. -/
theorem two_le_countP {sort : Telegram → Bool} : ∀ {q : List Telegram} {a b : Nat} {x y : Telegram}, a < b →
    q[a]? = some x → q[b]? = some y → sort x = true → sort y = true → 2 ≤ q.countP sort
  | [], _, _, _, _, _, h, _, _, _ => by cases h
  | t :: ts, a, 0, _, _, h, _, _, _, _ => by omega
  | t :: ts, 0, b + 1, x, y, _, ha, hb, hx, hy => by
    simp only [List.getElem?_cons_zero, Option.some.injEq, List.getElem?_cons_succ] at ha hb
    subst ha
    have : 0 < ts.countP sort := List.countP_pos_iff.mpr ⟨y, List.mem_of_getElem? hb, hy⟩
    rw [List.countP_cons, hx, if_pos rfl]
    omega
  | t :: ts, a + 1, b + 1, x, y, h, ha, hb, hx, hy => by
    have := two_le_countP (q := ts) (a := a) (b := b) (by omega) (by simpa using ha) (by simpa using hb) hx hy
    rw [List.countP_cons]
    omega

/-- A queue with one HEADSTATE holds it in one place. -/
theorem one_headstate {l : LinkController} (h : l.headstates = 1) {i j : Nat} {g g' : Headstate}
    (hi : l.txQueue[i]? = some (.headstate g)) (hj : l.txQueue[j]? = some (.headstate g')) : j = i := by
  unfold LinkController.headstates at h
  by_contra hne
  rcases Nat.lt_or_gt_of_ne hne with hh | hh
  · have := two_le_countP (sort := Telegram.isHeadstate) hh hj hi rfl rfl
    omega
  · have := two_le_countP (sort := Telegram.isHeadstate) hh hi hj rfl rfl
    omega

/-- Queuing a SIGHTING: it joins the tail, or is discarded with REPORT_LOST (R180). -/
theorem queueSighting_cases (g : Sighting) (s : State) :
    (s.lc.txQueue.length < 12
        ∧ queueSighting g s =
          ({ s with lc := { s.lc with
              txQueue := s.lc.txQueue ++ [.sighting g]
              tx := if s.lc.tx = .idle then .contending false else s.lc.tx } }, true))
      ∨ (12 ≤ s.lc.txQueue.length ∧ queueSighting g s = (s.raise .reportLost, false)) := by
  unfold queueSighting
  by_cases h : s.lc.txQueue.length < 12
  · refine .inl ⟨h, ?_⟩
    rw [if_pos h]
    unfold LinkController.join LinkController.takeHead
    by_cases hi : s.lc.tx = .idle
    · simp [hi, State.setLc]
    · simp [hi, State.setLc]
  · exact .inr ⟨by omega, if_neg h⟩

/-- Queuing a HANDOVER: it joins the tail, displaces the oldest SIGHTING, displaces the HEADSTATE, which is returned, or
is discarded; all but the first raise REPORT_LOST (R180, R182). -/
theorem queueHandover_cases (h : Handover) (s : State) :
    (s.lc.txQueue.length < 12 ∧ queueHandover h s = s.setLc (s.lc.join (.handover h)))
      ∨ (12 ≤ s.lc.txQueue.length ∧
        ((∃ i g, s.lc.txQueue[i]? = some (.sighting g) ∧ ¬(s.lc.tx = .sending ∧ i = 0)
            ∧ queueHandover h s = (s.setLc (s.lc.displace i (.handover h))).raise .reportLost)
          ∨ (∃ i g, s.lc.txQueue[i]? = some (.headstate g) ∧ ¬(s.lc.tx = .sending ∧ i = 0)
            ∧ queueHandover h s =
              ((returnHeadstate g s).setLc ((returnHeadstate g s).lc.displace i (.handover h))).raise .reportLost)
          ∨ queueHandover h s = s.raise .reportLost)) := by
  unfold queueHandover
  by_cases hl : s.lc.txQueue.length < 12
  · exact .inl ⟨hl, if_pos hl⟩
  · refine .inr ⟨by omega, ?_⟩
    rw [if_neg hl]
    split
    · rename_i i hi
      obtain ⟨x, h1, h2, h3⟩ := oldest_some hi
      cases x with
      | sighting g => exact .inl ⟨i, g, h1, h3, rfl⟩
      | _ => cases h2
    · split
      · rename_i i hi
        obtain ⟨x, h1, h2, h3⟩ := oldest_some hi
        cases x with
        | headstate g =>
          refine .inr (.inl ⟨i, g, h1, h3, ?_⟩)
          have : returnAt i s = returnHeadstate g s := by unfold returnAt; rw [h1]
          rw [this]
        | _ => cases h2
      · exact .inr (.inr rfl)

/-! ### Entries and banks -/

/-- Freeing an entry: its position is EMPTY, partners are dropped and the TAKING lanes of its tag stop with ENDED
(R85, R136). -/
theorem freeEntry_some {i : Nat} {e : Entry} {s : State} (h : s.tt.entry i = some e) :
    freeEntry i s =
      { s with
        tt := { s.tt with entries := (s.tt.entries.set i none).map fun p => p.map (Entry.dropPartner i) }
        ss := s.ss.mapLanes fun _ l => if l.isTaking && l.tag == e.tag then l.stop .ended else l } := by
  unfold freeEntry
  rw [h]
  rfl

theorem freeEntry_none {i : Nat} {s : State} (h : s.tt.entry i = none) : freeEntry i s = s := by
  unfold freeEntry
  rw [h]

/-- A bank whose block has a hit becomes COMPUTING; any other completes at once (R137). -/
theorem startCompute_cases (k : Nat) (b : Block) (s : State) :
    ((∃ l ∈ b.lanes, l.hitFrames ≠ 0) ∧ startCompute k b s =
        { s with ss := { s.ss with banks := s.ss.banks.set k (.computing b), computing := some k } })
      ∨ ((∀ l ∈ b.lanes, l.hitFrames = 0) ∧ startCompute k b s =
        { s with ss := { s.ss with banks := s.ss.banks.set k .free, computing := none } }) := by
  unfold startCompute
  by_cases h : b.lanes.any (fun l => l.hitFrames != 0) = true
  · exact .inl ⟨by simpa using h, if_pos h⟩
  · exact .inr ⟨by simpa using h, if_neg h⟩

end Sys2Proof.Machine
end

