-- ==== Sys2Proof/Laws/Results.lean ====
section
/-! SUPPORT. The results that several commands share, as Safety.lean names them: what an offered lane, a freed entry, a
stop of lanes, a settling, a close, a natural end and an absent frame give. -/

namespace Sys2Proof.Machine

/-! ### Entries and lanes -/

theorem entry_lt {t : TrackTable} {i : Nat} {e : Entry} (h : t.entry i = some e) : i < t.entries.length := by
  by_contra hn
  simp [TrackTable.entry, List.getElem?_eq_none (Nat.le_of_not_lt hn)] at h

@[simp] theorem entry_setEntry_self {s : State} {i : Nat} {e : Option Entry} (h : i < s.tt.entries.length) :
    (s.setEntry i e).tt.entry i = e := by
  simp [State.setEntry, State.setTt, TrackTable.entry, List.getD_eq_getElem?_getD, h]

theorem entry_setEntry_ne {s : State} {i j : Nat} {e : Option Entry} (h : j ≠ i) :
    (s.setEntry i e).tt.entry j = s.tt.entry j := by
  simp [State.setEntry, State.setTt, TrackTable.entry, List.getD_eq_getElem?_getD, List.getElem?_set_ne (Ne.symm h)]

/-- Offering a lane to an entry just written (R84, R129). -/
theorem offerLane_offered {i : Nat} {u : State} (hi : i < u.tt.entries.length) (e : Entry) (first : Word32) :
    Offered i e first u (offerLane i first (u.setEntry i (some e))) := by
  have he := entry_setEntry_self (s := u) (e := some e) hi
  constructor
  · intro b hb hl
    have hb' : (u.setEntry i (some e)).ss.openBlock = some b := hb
    unfold offerLane
    rw [hb', he]
    simp only [Config.lanes, hl, if_true]
    simp [State.setEntry, State.setTt, State.setSs, newLane]
  · intro h
    unfold offerLane
    cases hb : u.ss.openBlock with
    | none =>
      have hb' : (u.setEntry i (some e)).ss.openBlock = none := hb
      rw [hb']
      rfl
    | some b =>
      have hb' : (u.setEntry i (some e)).ss.openBlock = some b := hb
      rw [hb', he]
      simp only [Config.lanes, Nat.not_lt.mpr (h b hb), if_false]
      rfl

theorem stop_ended (tag : Byte) :
    (fun l : Lane => if l.isTaking && l.tag == tag then l.stop .ended else l)
      = fun l => if l.status = .taking ∧ l.tag = tag then { l with ended := true, status := .stopped } else l := by
  funext l
  by_cases h : l.status = .taking <;> by_cases h' : l.tag = tag <;> simp [Lane.isTaking, Lane.stop, h, h']

theorem stop_yieldedDup (tag : Byte) :
    (fun l : Lane => if l.isTaking && l.tag == tag then l.stop .yieldedDup else l)
      = fun l => if l.status = .taking ∧ l.tag = tag then { l with yieldedDup := true, status := .stopped } else l := by
  funext l
  by_cases h : l.status = .taking <;> by_cases h' : l.tag = tag <;> simp [Lane.isTaking, Lane.stop, h, h']

theorem stop_handed (tag : Byte) :
    (fun l : Lane => if l.isTaking && l.tag == tag then l.stop .handed else l)
      = fun l => if l.status = .taking ∧ l.tag = tag then { l with handed := true, status := .stopped } else l := by
  funext l
  by_cases h : l.status = .taking <;> by_cases h' : l.tag = tag <;> simp [Lane.isTaking, Lane.stop, h, h']

/-- Stopping the lanes of a tag with ENDED (R136). -/
theorem stopLanes_ended (tag : Byte) (s : State) :
    stopLanes tag .ended s = { s with ss := s.ss.stopping tag fun l => { l with ended := true } } := by
  simp only [stopLanes, State.setSs, StripStore.mapLanes, Block.mapLanes, stop_ended, StripStore.stopping]

/-- Stopping the lanes of a tag with HANDED (R136). -/
theorem stopLanes_handed (tag : Byte) (s : State) :
    stopLanes tag .handed s = { s with ss := s.ss.stopping tag fun l => { l with handed := true } } := by
  simp only [stopLanes, State.setSs, StripStore.mapLanes, Block.mapLanes, stop_handed, StripStore.stopping]

/-- Stopping the lanes of a tag with YIELDED_DUP (R136). -/
theorem stopLanes_yieldedDup (tag : Byte) (s : State) :
    stopLanes tag .yieldedDup s = { s with ss := s.ss.stopping tag fun l => { l with yieldedDup := true } } := by
  simp only [stopLanes, State.setSs, StripStore.mapLanes, Block.mapLanes, stop_yieldedDup, StripStore.stopping]

/-- Freeing an entry (R85). -/
theorem freeEntry_freed {i : Nat} {e : Entry} {s : State} (h : s.tt.entry i = some e) :
    Freed i e s (freeEntry i s) := by
  unfold freeEntry
  rw [h]
  simp only [stopLanes_ended]
  rfl

/-! ### Settling and closing -/

theorem finish_eq_settled (b : Block) : b.mapLanes Lane.finish = { b with lanes := b.lanes.map Lane.settled } := by
  have h : Lane.finish = Lane.settled := by
    funext l
    simp [Lane.finish, Lane.settled, Lane.isTaking]
  rw [h]
  rfl

theorem settled_hits (l : Lane) : l.settled.hitFrames = l.hitFrames := by
  unfold Lane.settled; split <;> rfl

/-- The settling of a closed block that has a bank changes the Strip Store alone (R132, R137). -/
theorem settleBlock_settlesTo (cfg : Startup) {b : Block} {k : Nat} (hk : b.bank = some k) (s : State) :
    ∃ v, SettlesTo b k s.ss v ∧ settleBlock cfg s b = { s with ss := v } := by
  have e : settleBlock cfg s b =
      if b.lanes = [] then s.setSs (s.ss.setBank k .free)
      else if s.ss.computing = none then startCompute k { b with lanes := b.lanes.map Lane.settled } s
      else s.setSs (s.ss.setBank k (.waiting { b with lanes := b.lanes.map Lane.settled })) := by
    unfold settleBlock
    rw [finish_eq_settled]
    simp only [hk, List.map_eq_nil_iff]
  rw [e]
  by_cases hl : b.lanes = []
  · refine ⟨{ s.ss with banks := s.ss.banks.set k .free }, ⟨?_, ?_, ?_, ?_⟩, ?_⟩
    · intro _; rfl
    · intro h; exact absurd hl h
    · rintro _ ⟨l, h, _⟩; simp [hl] at h
    · intro _ _; rfl
    · rw [if_pos hl]; rfl
  · rw [if_neg hl]
    by_cases hc : s.ss.computing = none
    · rw [if_pos hc]
      rcases startCompute_cases k { b with lanes := b.lanes.map Lane.settled } s with ⟨h, e⟩ | ⟨h, e⟩
      · refine ⟨_, ⟨fun h => absurd h hl, fun _ h => absurd hc h, fun _ _ => rfl, fun _ h' => ?_⟩, e⟩
        obtain ⟨l, hm, h0⟩ := h
        simp only [List.mem_map] at hm
        obtain ⟨x, hx, rfl⟩ := hm
        rw [settled_hits] at h0
        exact absurd (h' x hx) h0
      · refine ⟨_, ⟨fun h => absurd h hl, fun _ h => absurd hc h, ?_, fun _ _ => ?_⟩, e⟩
        · rintro _ ⟨l, hm, h0⟩
          have := h l.settled (by simp only [List.mem_map]; exact ⟨l, hm, rfl⟩)
          rw [settled_hits] at this
          exact absurd this h0
        · rw [← hc]
    · rw [if_neg hc]
      exact ⟨_, ⟨fun h => absurd h hl, fun _ _ => rfl, fun h => absurd h hc, fun h => absurd h hc⟩, rfl⟩

theorem owesFrames_iff (s : State) (b : Block) (c : Closing) (h : b.closing = some c) :
    owesFrames s b = true ↔ Owes s b c.lastFrame := by
  simp [owesFrames, Owes, Block.holds, Block.lastFrame, h, inFrames]

/-- What settles when the Front End has treated a row or a frame (R132). -/
theorem settleReady_settlesAfter (cfg : Startup) (s : State) : SettlesAfter s (settleReady cfg s) := by
  refine ⟨fun h => ?_, fun b k c hb hk hc => ?_, fun b k c b' k' c' hb hk hc hk' hc' => ?_⟩
  · rw [settleReady_of_nil cfg s h]
    exact ⟨rfl, rfl, rfl⟩
  · have hi := owesFrames_iff s b c hc
    by_cases ho : owesFrames s b = true
    · have e : settleReady cfg s = s := by
        simp only [settleReady, hb, List.filter_cons, ho, Bool.not_true, if_true, List.filter_nil,
          Bool.false_eq_true, if_false, List.foldl_nil]
        rw [← hb]; rfl
      rw [e]
      exact ⟨rfl, rfl, fun _ => rfl, fun h => absurd (hi.mp ho) h⟩
    · have ho' : owesFrames s b = false := by simpa using ho
      obtain ⟨v, hv, e'⟩ := settleBlock_settlesTo cfg hk (s.setSs { s.ss with settling := [] })
      have e : settleReady cfg s = settleBlock cfg (s.setSs { s.ss with settling := [] }) b := by
        simp only [settleReady, hb, List.filter_cons, ho', Bool.not_false, if_true, List.filter_nil,
          Bool.false_eq_true, if_false, List.foldl_cons, List.foldl_nil]
      rw [e, e']
      exact ⟨rfl, rfl, fun h => absurd (hi.mpr h) ho, fun _ => hv⟩
  · have hi := owesFrames_iff s b c hc
    have hi' := owesFrames_iff s b' c' hc'
    have e : settleReady cfg s =
        ([b, b'].filter fun b => !owesFrames s b).foldl (settleBlock cfg)
          (s.setSs { s.ss with settling := [b, b'].filter fun b => owesFrames s b }) := by
      rw [← hb]; rfl
    cases ho : owesFrames s b <;> cases ho' : owesFrames s b' <;>
      simp only [List.filter_cons, ho, ho', Bool.not_true, Bool.not_false, if_true, if_false, Bool.false_eq_true,
        List.filter_nil, List.foldl_cons, List.foldl_nil] at e <;> rw [ho] at hi <;> rw [ho'] at hi' <;>
      simp only [Bool.false_eq_true, false_iff, true_iff] at hi hi'
    · obtain ⟨w, hw, ew⟩ := settleBlock_settlesTo cfg hk (s.setSs { s.ss with settling := [] })
      rw [ew] at e
      obtain ⟨v, hv, ev⟩ := settleBlock_settlesTo cfg hk' { s.setSs { s.ss with settling := [] } with ss := w }
      rw [e, ev]
      exact ⟨rfl, rfl, fun h => absurd h hi, fun _ h => absurd h hi', fun h => absurd h hi, fun _ _ => ⟨w, hw, hv⟩⟩
    · obtain ⟨v, hv, ev⟩ := settleBlock_settlesTo cfg hk (s.setSs { s.ss with settling := [b'] })
      rw [e, ev]
      exact ⟨rfl, rfl, fun h => absurd h hi, fun _ _ => hv, fun h => absurd h hi, fun _ h => absurd hi' h⟩
    · obtain ⟨v, hv, ev⟩ := settleBlock_settlesTo cfg hk' (s.setSs { s.ss with settling := [b] })
      rw [e, ev]
      exact ⟨rfl, rfl, fun _ h => absurd h hi', fun h => absurd hi h, fun _ _ => hv, fun h => absurd hi h⟩
    · rw [← hb] at e
      rw [e]
      exact ⟨rfl, rfl, fun _ _ => rfl, fun h => absurd hi h, fun _ h => absurd hi' h, fun h => absurd hi h⟩

/-- A lane without a hit reports nothing (R138). -/
theorem reportLane_none (cfg : Startup) (b : Block) (r : Lane → LaneResult) {l : Lane} (s : State)
    (h : l.hitFrames = 0) : reportLane cfg b r s l = s := by unfold reportLane; rw [if_pos h]

/-- A lane with hits whose SIGHTING finds room: it joins, and the entry that holds its origin loses it (R111, R139). -/
theorem reportLane_fits (cfg : Startup) (b : Block) (r : Lane → LaneResult) {l : Lane} {s : State}
    (h : l.hitFrames ≠ 0) (hq : s.lc.txQueue.length < 12) :
    reportLane cfg b r s l = { s with
      tt := { s.tt with entries := s.tt.entries.map fun p => p.map fun e =>
        if l.tag = e.tag ∧ l.origin ≠ none ∧ l.origin = e.origin then { e with origin := none } else e }
      lc := { s.lc with
        txQueue := s.lc.txQueue ++ [.sighting (sightingOf cfg b (r l) l)]
        tx := if s.lc.tx = .idle then .contending false else s.lc.tx } } := by
  unfold reportLane
  rw [if_neg h]
  rcases queueSighting_cases (sightingOf cfg b (r l) l) s with ⟨_, e⟩ | ⟨h', _⟩
  · rw [e]
    cases ho : l.origin with
    | none => simp
    | some o =>
      simp only [clearOrigin, State.setTt, ne_eq, reduceCtorEq, not_false_eq_true, true_and]
      congr 3
      funext p; congr 1; funext e
      have : (e.tag = l.tag ∧ e.origin = some o) = (l.tag = e.tag ∧ some o = e.origin) := by
        rw [eq_comm (a := e.tag), eq_comm (a := e.origin)]
      simp only [this]
  · omega

/-- One that finds the queue full is discarded with REPORT_LOST, its origin kept (R180). -/
theorem reportLane_full (cfg : Startup) (b : Block) (r : Lane → LaneResult) {l : Lane} {s : State}
    (h : l.hitFrames ≠ 0) (hq : 12 ≤ s.lc.txQueue.length) :
    reportLane cfg b r s l = s.raise .reportLost := by
  unfold reportLane
  rw [if_neg h]
  rcases queueSighting_cases (sightingOf cfg b (r l) l) s with ⟨h', _⟩ | ⟨_, e⟩
  · omega
  · rw [e]

/-- Queuing the SIGHTINGs of lanes in order, as Safety.lean gives it whole (R111, R138, R140, R180). -/
theorem reportLanes_eq (cfg : Startup) (b : Block) (r : Lane → LaneResult) :
    ∀ (ls : List Lane) (s : State), ls.foldl (reportLane cfg b r) s = reported cfg b r ls s
  | [], s => by simp [reported]
  | l :: ls, s => by
    rw [List.foldl_cons, reportLanes_eq cfg b r ls]
    by_cases h : l.hitFrames = 0
    · rw [reportLane_none cfg b r s h]
      simp only [reported, List.filter_cons, h, ne_eq, not_true_eq_false, decide_false, Bool.false_eq_true, if_false]
    · have hf : (l :: ls).filter (fun l => l.hitFrames ≠ 0) = l :: ls.filter fun l => l.hitFrames ≠ 0 := by simp [h]
      by_cases hq : s.lc.txQueue.length < 12
      · obtain ⟨n, hn⟩ : ∃ n, 12 - s.lc.txQueue.length = n + 1 := ⟨11 - s.lc.txQueue.length, by omega⟩
        rw [reportLane_fits cfg b r h hq]
        simp only [reported]
        rw [hf, hn, List.take_succ_cons]
        have hn' : 12 - (s.lc.txQueue ++ [Telegram.sighting (sightingOf cfg b (r l) l)]).length = n := by
          simp only [List.length_append, List.length_singleton]; omega
        rw [hn']
        congr 1
        · congr 1
          rw [List.map_map]
          apply List.map_congr_left
          intro p _
          cases p with
          | none => rfl
          | some e =>
            simp only [Function.comp_apply, Option.map_some, List.mem_cons, exists_eq_or_imp]
            by_cases hc : l.tag = e.tag ∧ l.origin ≠ none ∧ l.origin = e.origin
            · rw [if_pos hc, if_neg (by rintro ⟨x, _, _, h1, h2⟩; exact h1 h2), if_pos (Or.inl hc)]
            · simp only [hc, false_or, if_false]
        · congr 1
          · simp
          · by_cases hi : s.lc.tx = .idle <;> simp [hi]
          · simp only [List.length_cons, Nat.add_lt_add_iff_right]
      · have hz : 12 - s.lc.txQueue.length = 0 := by omega
        rw [reportLane_full cfg b r h (by omega)]
        simp only [reported]
        rw [hf]
        simp only [State.raise, State.setLc, LinkController.raise, hz, List.take_zero, List.length_nil, List.length_cons]
        simp [BitVec.or_assoc]

/-- What a SIGHTING carries of its block is not in the block's lanes. -/
theorem reported_lanes (cfg : Startup) (b : Block) (r : Lane → LaneResult) (ls lanes : List Lane) (s : State) :
    reported cfg { b with lanes := ls } r lanes s = reported cfg b r lanes s := rfl

/-- What becomes of the open block at a close (R130, R132, R140). -/
theorem closeBlock_closesTo (cfg : Startup) (last : Word32) {s : State} {b : Block} (hb : s.ss.openBlock = some b) :
    ClosesTo cfg last s.du.distance b s (closeBlock cfg last s) := by
  let u : State := (s.setSs { s.ss with openBlock := none }).setTt
    { s.tt with entries := s.tt.entries.map fun p => p.map fun e => { e with lane := none } }
  have hc : b.close last s.du.distance = b.closedAt last s.du.distance := rfl
  have ho : owesFrames u (b.close last s.du.distance) = true ↔ Owes s b last :=
    owesFrames_iff u _ ⟨last, s.du.distance⟩ rfl
  have e0 : closeBlock cfg last s =
      if (b.close last s.du.distance).bank = none then
        settleBlock cfg u (countOwed u (b.close last s.du.distance))
      else if b.lanes = [] ∨ owesFrames u (b.close last s.du.distance) = false then
        settleBlock cfg u (b.close last s.du.distance)
      else u.setSs { u.ss with settling := u.ss.settling ++ [b.close last s.du.distance] } := by
    unfold closeBlock
    rw [hb]
    rfl
  constructor
  · intro k hk
    have hn : ¬(b.close last s.du.distance).bank = none := by
      show ¬b.bank = none
      rw [hk]; simp
    rw [if_neg hn] at e0
    obtain ⟨v, hv, ev⟩ := settleBlock_settlesTo cfg (b := b.close last s.du.distance) (k := k) hk u
    by_cases h : b.lanes = [] ∨ owesFrames u (b.close last s.du.distance) = false
    · rw [if_pos h, ev] at e0
      rw [e0]
      refine ⟨rfl, rfl, fun hl ho' => ?_, fun _ => hv⟩
      rcases h with h | h
      · exact absurd h hl
      · rw [ho.mpr ho'] at h; cases h
    · rw [if_neg h] at e0
      rw [e0]
      refine ⟨rfl, rfl, fun _ _ => rfl, fun h' => absurd ?_ h⟩
      rcases h' with h' | h'
      · exact .inl h'
      · exact .inr (by rw [← Bool.not_eq_true]; exact fun hh => h' (ho.mp hh))
  · intro hk
    have hn : (b.close last s.du.distance).bank = none := hk
    rw [if_pos hn] at e0
    have hf : ∀ l : Lane,
        ((heldFrames u).filter fun f => !isDark f && (b.close last s.du.distance).holds u.du.frameIndex f
          && l.covers (b.close last s.du.distance) u.du.frameIndex f).length =
        (heldFrames s).countP fun f => decide (f.toNat % 8 ≠ 7
          ∧ (f - b.openFrame).toNat ≤ (last - b.openFrame).toNat
          ∧ (f - l.firstFrame).toNat ≤ (last - l.firstFrame).toNat) := by
      intro l
      rw [List.countP_eq_length_filter]
      congr 1
      apply List.filter_congr
      intro f _
      simp only [isDark, Block.holds, Lane.covers, Block.lastFrame, Block.close, inFrames, Bool.and_assoc,
        Option.map_some, Option.getD_some, Bool.decide_and, decide_not]
      rfl
    have hlanes : ((countOwed u (b.close last s.du.distance)).mapLanes Lane.finish) =
        { b.closedAt last s.du.distance with
          lanes := b.lanes.map fun l =>
            if l.status = .taking then
              { l with
                status := .done
                absent := l.absent + (heldFrames s).countP fun f => decide (f.toNat % 8 ≠ 7
                  ∧ (f - b.openFrame).toNat ≤ (last - b.openFrame).toNat
                  ∧ (f - l.firstFrame).toNat ≤ (last - l.firstFrame).toNat) }
            else l } := by
      unfold countOwed
      simp only [hf]
      simp only [Block.mapLanes, hc, Block.closedAt, List.map_map]
      congr 1
      apply List.map_congr_left
      intro l _
      by_cases ht : l.status = .taking <;> simp [Lane.isTaking, Lane.finish, ht]
    intro owed lanes w
    have e1 : closeBlock cfg last s = w := by
      rw [e0]
      unfold settleBlock
      rw [hlanes]
      have hk' : (b.closedAt last s.du.distance).bank = none := hk
      simp only [hk']
      exact (reportLanes_eq cfg _ _ _ _).trans (reported_lanes cfg (b.closedAt last s.du.distance) _ lanes _ _)
    rw [e1]
    exact ⟨rfl, rfl, rfl⟩

/-- With nothing settling, a close leaves nothing that settles at once: the closed block waits or has settled. -/
theorem settleReady_closeBlock (cfg : Startup) {f : Word32} {s : State} {b : Block} (hb : s.ss.openBlock = some b)
    (hs : s.ss.settling = []) : settleReady cfg (closeBlock cfg f s) = closeBlock cfg f s := by
  have hct := closeBlock_closesTo cfg f hb
  have hfr := (closeBlock_frame cfg f s).1
  cases hk : b.bank with
  | none => exact settleReady_of_nil _ _ (by rw [(hct.2 hk).2.2]; exact hs)
  | some k =>
    obtain ⟨h1, h2⟩ := (hct.1 k hk).2.2
    by_cases ho : b.lanes ≠ [] ∧ Owes s b f
    · have e := h1 ho.1 ho.2
      have hset : (closeBlock cfg f s).ss.settling = [b.closedAt f s.du.distance] := by rw [e]; simp [hs]
      have hw : Owes (closeBlock cfg f s) (b.closedAt f s.du.distance) f := by rw [hfr]; exact ho.2
      have hsa := (settleReady_settlesAfter cfg (closeBlock cfg f s)).2.1 _ k ⟨f, s.du.distance⟩ hset hk rfl
      have hf : (closeBlock cfg f s).ss.settling.filter (fun b => owesFrames (closeBlock cfg f s) b) =
          (closeBlock cfg f s).ss.settling := by
        rw [hset, List.filter_cons, if_pos ((owesFrames_iff _ _ ⟨f, s.du.distance⟩ rfl).mpr hw)]
        rfl
      rw [(settleReady_frame cfg (closeBlock cfg f s)).1, hsa.2.2.1 hw, hsa.1, hsa.2.1, hf]
    · obtain ⟨e1, e2, e3, e4⟩ := h2 (by
        by_cases hl : b.lanes = []
        · exact .inl hl
        · exact .inr fun h => ho ⟨hl, h⟩)
      apply settleReady_of_nil
      by_cases hl : b.lanes = []
      · rw [e1 hl]; exact hs
      · by_cases hc : s.ss.computing = none
        · by_cases hh : ∃ l ∈ b.lanes, l.hitFrames ≠ 0
          · rw [e3 hc hh]; exact hs
          · rw [e4 hc fun l hm => by by_contra h0; exact hh ⟨l, hm, h0⟩]; exact hs
        · rw [e2 hl hc]; exact hs

/-! ### The natural end -/

/-- The treatment of the open block's frame whose index mod 32 is 31 closes it (R131). -/
theorem naturalEnd_ends (cfg : Startup) {f : Word32} {s : State} {b : Block} (hb : s.ss.openBlock = some b)
    (hc : b.closing = none) (h31 : f.toNat % 32 = 31)
    (hr : (f - b.openFrame).toNat ≤ (s.du.frameIndex - b.openFrame).toNat) :
    naturalEnd cfg f s = closeBlock cfg f s := by
  unfold naturalEnd
  rw [hb]
  simp only
  rw [if_pos]
  exact ⟨h31, by simpa [Block.holds, inFrames, Block.lastFrame, hc] using hr⟩

/-- That of another frame does not. -/
theorem naturalEnd_other (cfg : Startup) {f : Word32} {s : State}
    (h : f.toNat % 32 ≠ 31 ∨ ∀ b, s.ss.openBlock = some b → b.closing = none
      ∧ ¬(f.toNat % 32 = 31 ∧ (f - b.openFrame).toNat ≤ (s.du.frameIndex - b.openFrame).toNat)) :
    naturalEnd cfg f s = s := by
  unfold naturalEnd
  split
  · rename_i b hb
    rw [if_neg]
    rintro ⟨h1, h2⟩
    rcases h with h | h
    · exact h h1
    · obtain ⟨hc, hn⟩ := h b hb
      exact hn ⟨h1, by simpa [Block.holds, inFrames, Block.lastFrame, hc] using h2⟩
  · rfl

/-! ### What a close and a settling speak of -/

/-- What settles depends on the Strip Store, the Link Controller, the table and what the Front End holds alone. -/
theorem settlesAfter_congr {s s' t : State} (h1 : s'.ss = s.ss) (h2 : s'.lc = s.lc) (h3 : s'.tt = s.tt)
    (h4 : heldFrames s' = heldFrames s) (h : SettlesAfter s' t) : SettlesAfter s t := by
  have ho : ∀ b f, Owes s' b f ↔ Owes s b f := by intro b f; unfold Owes; rw [h4]
  unfold SettlesAfter at *
  simp only [ho, h1, h2, h3] at h
  exact h

/-- So much of the state after is all that it speaks of. -/
theorem settlesAfter_congr_after {s t t' : State} (h1 : t'.ss = t.ss) (h2 : t'.lc = t.lc) (h3 : t'.tt = t.tt)
    (h : SettlesAfter s t) : SettlesAfter s t' := by
  unfold SettlesAfter at *
  simp only [h1, h2, h3]
  exact h

/-- A close depends on the same. -/
theorem closesTo_congr {cfg : Startup} {last d : Word32} {b : Block} {s s' t : State} (h1 : s'.ss = s.ss)
    (h2 : s'.lc = s.lc) (h3 : s'.tt = s.tt) (h4 : heldFrames s' = heldFrames s) (h : ClosesTo cfg last d b s' t) : ClosesTo cfg last d b s t := by
  have ho : ∀ b f, Owes s' b f ↔ Owes s b f := by intro b f; unfold Owes; rw [h4]
  unfold ClosesTo BankClosesTo reported at *
  simp only [ho, h1, h2, h3, h4] at h ⊢
  exact h

/-! ### Absent frames -/

/-- Frames that are dark or out of the lane's range are not counted. -/
theorem Lane.withAbsent_uncovered {last : Word32} {lost : List Word32} {l : Lane}
    (h : ∀ f ∈ lost, f.toNat % 8 = 7 ∨ (last - l.firstFrame).toNat < (f - l.firstFrame).toNat) :
    l.withAbsent last lost = l := by
  unfold Lane.withAbsent
  split
  · rw [List.countP_eq_zero.mpr]
    · rfl
    · intro f hf
      have := h f hf
      simp only [decide_eq_true_eq]
      omega
  · rfl

/-- Frames that are dark or out of every lane's range change nothing. -/
theorem withAbsent_uncovered {ss : StripStore} {now : Word32} {lost : List Word32}
    (h : ∀ b, ss.openBlock = some b ∨ b ∈ ss.settling → ∀ l ∈ b.lanes, ∀ f ∈ lost, f.toNat % 8 = 7 ∨
      (((b.closing.map (·.lastFrame)).getD now) - l.firstFrame).toNat < (f - l.firstFrame).toNat) :
    ss.withAbsent now lost = ss := by
  have hb (b : Block) (hbm : ss.openBlock = some b ∨ b ∈ ss.settling) :
      ({ b with lanes := b.lanes.map (Lane.withAbsent ((b.closing.map (·.lastFrame)).getD now) lost) } : Block) = b := by
    rw [List.map_congr_left fun l hl => Lane.withAbsent_uncovered (h b hbm l hl), List.map_id']
  obtain ⟨ob, st, _⟩ := ss
  simp only [StripStore.withAbsent, StripStore.mk.injEq, and_self, and_true]
  refine ⟨?_, ?_⟩
  · cases ob with
    | none => rfl
    | some b => rw [Option.map_some, hb b (.inl rfl)]
  · rw [List.map_congr_left fun b hm => hb b (.inr hm), List.map_id']

/-- A frame that becomes absent is counted, and may end its block (R40, R131, R135). -/
theorem frameAbsent_eq (cfg : Startup) (s : State) (f : Word32) :
    frameAbsent cfg s f = naturalEnd cfg f { s with ss := s.ss.withAbsent s.du.frameIndex [f] } := by
  unfold frameAbsent
  dsimp only
  congr 1
  split
  · rename_i hd
    rw [withAbsent_uncovered]
    intro b _ l _ g hg
    rw [List.mem_singleton] at hg
    exact .inl (by simpa [hg, isDark] using hd)
  · rename_i hd
    have hd' : f.toNat % 8 ≠ 7 := by simpa [isDark] using hd
    have h (b : Block) : (fun l : Lane => if l.isTaking && l.covers b s.du.frameIndex f then
        { l with absent := l.absent + 1 } else l)
        = Lane.withAbsent ((b.closing.map (·.lastFrame)).getD s.du.frameIndex) [f] := by
      funext l
      by_cases ht : l.status = .taking <;>
        by_cases hc : (f - l.firstFrame).toNat ≤
          ((b.closing.map (·.lastFrame)).getD s.du.frameIndex - l.firstFrame).toNat <;>
        simp [-BitVec.toNat_sub, Lane.withAbsent, Lane.isTaking, ht, hd', Lane.covers, inFrames, Block.lastFrame, hc]
      rw [← ht]
    simp only [State.setSs, StripStore.mapLanes, Block.mapLanes, StripStore.withAbsent, h]

/-- What the treatment of an absent frame does, as Safety.lean gives it whole (R40, R131, R132, R135). -/
theorem treatAbsent_becomesAbsent (cfg : Startup) (f : Word32) (u : State) :
    BecomesAbsent cfg f u (treatAbsent cfg u f) := by
  refine ⟨?_, fun h => ?_, fun o ho hc he => ?_⟩
  · unfold treatAbsent
    rw [(settleReady_frame cfg _).1, frameAbsent_frame]
  · have e : frameAbsent cfg u f = { u with ss := u.ss.withAbsent u.du.frameIndex [f] } := by
      rw [frameAbsent_eq, naturalEnd_other]
      refine h.imp_right fun hh b hb => ?_
      simp only [StripStore.withAbsent, Option.map_eq_some_iff] at hb
      obtain ⟨o, ho, rfl⟩ := hb
      exact hh o ho
    unfold treatAbsent
    rw [e]
    exact settleReady_settlesAfter cfg _
  · have e : frameAbsent cfg u f = closeBlock cfg f u := by
      rw [frameAbsent_eq, withAbsent_uncovered]
      · exact naturalEnd_ends cfg (s := u) ho hc he.1 he.2
      · intro _ _ l _ g hg
        obtain rfl := List.mem_singleton.mp hg
        have := he.1
        exact .inl (by omega)
    unfold treatAbsent
    rw [e]
    refine ⟨closeBlock cfg f u, ?_, closeBlock_closesTo cfg f ho, settleReady_settlesAfter cfg _⟩
    rw [(closeBlock_frame cfg f u).1]

/-- What the older frames' absence does, as Safety.lean gives it whole (R37, R132). -/
theorem olderAbsent_inTurn (cfg : Startup) (rest : List ExpectedRow) : ∀ (older : List ExpectedRow) (s : State),
    AbsentInTurn cfg rest older s (olderAbsent cfg rest older s)
  | [], _ => rfl
  | e :: older, _ => ⟨_, treatAbsent_becomesAbsent cfg e.frame _, olderAbsent_inTurn cfg rest older _⟩

/-! ### What absences leave alone -/

/-- Entries that agree but for a reported origin and a lane. -/
def SameButLane (e e' : Entry) : Prop := e' = { e with origin := e'.origin, lane := e'.lane }

theorem SameButLane.refl (e : Entry) : SameButLane e e := rfl

/-- What making frames absent can change: besides the Front End, the entries' origins and lanes, the Strip Store and the
Link Controller. -/
def AbsenceFrame (s t : State) : Prop :=
  t = { s with fe := t.fe, tt := { s.tt with entries := t.tt.entries }, ss := t.ss, lc := t.lc }
    ∧ Entrywise SameButLane s.tt.entries t.tt.entries

theorem AbsenceFrame.refl (s : State) : AbsenceFrame s s := ⟨rfl, .refl SameButLane.refl _⟩

theorem AbsenceFrame.trans {a b c : State} (h1 : AbsenceFrame a b) (h2 : AbsenceFrame b c) : AbsenceFrame a c := by
  refine ⟨?_, Entrywise.trans (fun x y z (h : y = _) (h' : z = _) => ?_) h1.2 h2.2⟩
  · have e1 := h1.1
    have e2 := h2.1
    rw [e2]
    simp only
    rw [e1]
  · show z = _
    rw [h', h]

theorem AbsenceFrame.setFe (s : State) (f : FrontEnd) : AbsenceFrame s (s.setFe f) := ⟨rfl, .refl SameButLane.refl _⟩

theorem naturalEnd_absence (cfg : Startup) (f : Word32) (s : State) : AbsenceFrame s (naturalEnd cfg f s) := by
  unfold naturalEnd
  split
  · split
    · obtain ⟨e, h⟩ := closeBlock_frame cfg f s
      refine ⟨by rw [e], List.Forall₂.imp (fun a b hab => ?_) h⟩
      cases hab with
      | none => exact .none
      | some h => exact .some h.1
    · exact .refl s
  · exact .refl s

theorem treatAbsent_absence (cfg : Startup) (s : State) (f : Word32) : AbsenceFrame s (treatAbsent cfg s f) := by
  have h1 : AbsenceFrame s (frameAbsent cfg s f) := by
    rw [frameAbsent_eq]
    exact .trans (b := { s with ss := s.ss.withAbsent s.du.frameIndex [f] }) ⟨rfl, .refl SameButLane.refl _⟩
      (naturalEnd_absence cfg f _)
  refine h1.trans ?_
  obtain ⟨e, h⟩ := settleReady_frame cfg (frameAbsent cfg s f)
  refine ⟨?_, List.Forall₂.imp (fun a b hab => ?_) h⟩
  · unfold treatAbsent
    rw [e]
  · cases hab with
    | none => exact .none
    | some h => exact .some (by unfold SameButLane; rw [h.1])

theorem olderAbsent_absence (cfg : Startup) (rest : List ExpectedRow) : ∀ (older : List ExpectedRow) (s : State),
    AbsenceFrame s (olderAbsent cfg rest older s)
  | [], s => .refl s
  | e :: older, s => (AbsenceFrame.setFe s { s.fe with expected := older ++ rest }).trans
      ((treatAbsent_absence cfg _ e.frame).trans (olderAbsent_absence cfg rest older _))

theorem joinQueue_absence (cfg : Startup) (m : ExpectedRow) (c : List RowCell) (older newer : List ExpectedRow)
    (s : State) : AbsenceFrame s (joinQueue cfg m c older newer s) := by
  unfold joinQueue
  dsimp only
  split
  · exact (olderAbsent_absence cfg _ older s).trans ((AbsenceFrame.setFe _ _).trans (AbsenceFrame.setFe _ _))
  · refine (olderAbsent_absence cfg (m :: newer) older s).trans (.trans ?_ (treatAbsent_absence cfg _ m.frame))
    exact ⟨rfl, .refl SameButLane.refl _⟩

/-- The gates are read from nothing that an absence changes. -/
theorem AbsenceFrame.gates {s t : State} (h : AbsenceFrame s t) : gatesOf t.tt = gatesOf s.tt := by
  have h := h.2
  unfold gatesOf
  generalize s.tt.entries = a at h
  generalize t.tt.entries = b at h
  induction h with
  | nil => rfl
  | cons x _ ih =>
    cases x with
    | none => simpa using ih
    | some h =>
      have h : _ = _ := h
      simp only [List.filterMap_cons, Option.map_some, ih]
      rw [h]
      rfl

end Sys2Proof.Machine
end

