-- ==== Sys2Proof/Laws/Trigger.lean ====
section
/-! SUPPORT. What offering lanes, opening a block and the parts of a frame trigger can do to the state. -/

namespace Sys2Proof.Machine

/-! ### Offering lanes -/

/-- Offering a lane where a block is open with a lane free and the entry is there. -/
theorem offerLane_bound {i : Nat} {f : Word32} {s : State} {b : Block} {e : Entry} (hb : s.ss.openBlock = some b)
    (he : s.tt.entry i = some e) (hl : b.lanes.length < Config.lanes) :
    offerLane i f s =
      { s with
        ss := { s.ss with openBlock := some { b with lanes := b.lanes ++ [newLane e b.lanes.length f] } }
        tt := { s.tt with
          entries := s.tt.entries.set i (some { e with lane := some b.lanes.length, reclaimMark := false }) } } := by
  unfold offerLane
  rw [hb, he]
  simp only
  rw [if_pos hl]
  rfl

/-- Offering a lane where there is no open block, no entry, or no lane free. -/
theorem offerLane_refused {i : Nat} {f : Word32} {s : State}
    (h : ∀ b, s.ss.openBlock = some b → s.tt.entry i = none ∨ Config.lanes ≤ b.lanes.length) :
    offerLane i f s = s := by
  unfold offerLane
  split
  · rename_i b e hb he
    rcases h b hb with h | h
    · rw [he] at h; cases h
    · rw [if_neg (by omega)]
  · rfl

/-- Entries that agree but for a reported origin, a lane and the reclaim mark that binding clears. -/
def SameWire (e e' : Entry) : Prop := e' = { e with origin := e'.origin, lane := e'.lane, reclaimMark := e'.reclaimMark }

theorem SameWire.refl (e : Entry) : SameWire e e := rfl

theorem SameWire.trans (a b c : Entry) (h1 : SameWire a b) (h2 : SameWire b c) : SameWire a c := by
  unfold SameWire at *
  rw [h2, h1]

/-- What offering lanes can change: the lanes of the open block, and the entries' lanes and reclaim marks. -/
def OfferFrame (s t : State) : Prop :=
  t = { s with tt := { s.tt with entries := t.tt.entries }, ss := { s.ss with openBlock := t.ss.openBlock } }
    ∧ (s.ss.openBlock = none → t.ss.openBlock = none) ∧ Entrywise SameWire s.tt.entries t.tt.entries

theorem OfferFrame.refl (s : State) : OfferFrame s s := ⟨rfl, id, Entrywise.refl SameWire.refl _⟩

theorem OfferFrame.trans (a b c : State) (h1 : OfferFrame a b) (h2 : OfferFrame b c) : OfferFrame a c := by
  refine ⟨?_, h2.2.1 ∘ h1.2.1, Entrywise.trans SameWire.trans h1.2.2 h2.2.2⟩
  have e1 := h1.1
  have e2 := h2.1
  rw [e2]
  simp only
  rw [e1]

theorem offerLane_frame (i : Nat) (f : Word32) (s : State) : OfferFrame s (offerLane i f s) := by
  unfold offerLane
  split
  · rename_i b e hb he
    split
    · refine ⟨rfl, ?_, Entrywise.set SameWire.refl (e := e) ?_ he⟩
      · intro h
        rw [hb] at h
        cases h
      · exact SameWire.refl { e with lane := some b.lanes.length, reclaimMark := false }
    · exact .refl s
  · exact .refl s

theorem bindAtOpening_frame (f : Word32) (s : State) : OfferFrame s (bindAtOpening f s) := by
  refine foldl_related OfferFrame .refl .trans _ (fun s i => ?_) _ s
  split
  · split
    · exact offerLane_frame _ _ _
    · exact .refl s
  · exact .refl s

/-! ### The parts of a frame trigger -/

/-- What the work of a frame trigger after its ageing can change. -/
def TriggerFrame (s t : State) : Prop :=
  t = { s with
      du := { s.du with mark := t.du.mark }
      ec := { s.ec with cycle := t.ec.cycle }
      keep := t.keep
      tt := { s.tt with entries := t.tt.entries }
      ss := t.ss
      lc := t.lc
      src := { s.src with currentClass := t.src.currentClass } }
    ∧ Entrywise SameWire s.tt.entries t.tt.entries

theorem TriggerFrame.refl (s : State) : TriggerFrame s s := ⟨rfl, Entrywise.refl SameWire.refl _⟩

theorem TriggerFrame.trans (a b c : State) (h1 : TriggerFrame a b) (h2 : TriggerFrame b c) : TriggerFrame a c := by
  refine ⟨?_, Entrywise.trans SameWire.trans h1.2 h2.2⟩
  have e1 := h1.1
  have e2 := h2.1
  rw [e2]
  simp only
  rw [e1]

theorem OfferFrame.trigger {s t : State} (h : OfferFrame s t) : TriggerFrame s t := by
  refine ⟨?_, h.2.2⟩
  have e := h.1
  rw [e]

theorem closeBlock_trigger (cfg : Startup) (f : Word32) (s : State) : TriggerFrame s (closeBlock cfg f s) := by
  obtain ⟨h1, h2⟩ := closeBlock_frame cfg f s
  refine ⟨?_, Entrywise.trans (R := fun e e' => e' = { e with origin := e'.origin, lane := e'.lane }
    ∧ (s.ss.openBlock ≠ none → e'.lane = none) ∧ (e'.origin = e.origin ∨ e'.origin = none)) (S := Eq) ?_ h2 (Entrywise.refl (fun _ => rfl) _)⟩
  · rw [h1]
  · intro a b c h h'
    subst h'
    unfold SameWire
    rw [h.1]

theorem naturalEnd_trigger (cfg : Startup) (f : Word32) (s : State) : TriggerFrame s (naturalEnd cfg f s) := by
  unfold naturalEnd
  split
  · split
    · exact closeBlock_trigger _ _ _
    · exact .refl s
  · exact .refl s

theorem openBlock_trigger (cfg : Startup) (s : State) : TriggerFrame s (openBlock cfg s) := by
  unfold openBlock
  dsimp only
  refine TriggerFrame.trans _ _ _ ?_ (bindAtOpening_frame _ _).trigger
  cases (governorEvaluate cfg s).ss.freeBank <;> exact ⟨rfl, Entrywise.refl SameWire.refl _⟩

theorem triggerBlocks_trigger (cfg : Startup) (s : State) : TriggerFrame s (triggerBlocks cfg s) := by
  have h1 : TriggerFrame s (if s.du.frameIndex.toNat % 32 = 0 then closeBlock cfg (s.du.frameIndex - 1) s else s) := by
    split
    · exact closeBlock_trigger _ _ _
    · exact .refl s
  unfold triggerBlocks
  dsimp only
  refine TriggerFrame.trans _ _ _ h1 ?_
  generalize (if s.du.frameIndex.toNat % 32 = 0 then closeBlock cfg (s.du.frameIndex - 1) s else s) = s1
  split
  · split
    · exact openBlock_trigger _ _
    · exact .refl _
  · split
    · exact ⟨rfl, Entrywise.refl SameWire.refl _⟩
    · exact .refl _

theorem triggerExposure_trigger (cfg : Startup) (s : State) : TriggerFrame s (triggerExposure cfg s) := by
  unfold triggerExposure
  split
  · exact ⟨rfl, Entrywise.refl SameWire.refl _⟩
  · refine TriggerFrame.trans _ _ _ ?_ ⟨rfl, Entrywise.refl SameWire.refl _⟩
    unfold frameSkipped
    dsimp only
    refine TriggerFrame.trans _ _ _ ?_ (naturalEnd_trigger _ _ _)
    split <;> exact ⟨rfl, Entrywise.refl SameWire.refl _⟩

/-- What queuing a HEADSTATE can change: the pole mark and the Link Controller. -/
theorem queueHeadstate_frame (s : State) :
    queueHeadstate s =
      { s with du := { s.du with mark := (queueHeadstate s).du.mark }, lc := (queueHeadstate s).lc } := by
  unfold queueHeadstate
  dsimp only
  split
  · rfl
  · split
    · rfl
    · split <;> rfl

theorem headstateDue_frame (s : State) :
    headstateDue s =
      { s with du := { s.du with mark := (headstateDue s).du.mark }, lc := (headstateDue s).lc } := by
  unfold headstateDue
  split
  · rfl
  · exact queueHeadstate_frame s

theorem triggerHeadstate_trigger (s : State) : TriggerFrame s (triggerHeadstate s) := by
  unfold triggerHeadstate
  split
  · have h := headstateDue_frame s
    rw [h]
    exact ⟨rfl, Entrywise.refl SameWire.refl _⟩
  · exact .refl s

/-- What a frame trigger does after its ageing, as one frame. -/
theorem frameTrigger_frame (cfg : Startup) (s : State) :
    TriggerFrame (triggerAgeing cfg s) (frameTrigger cfg s) :=
  TriggerFrame.trans _ _ _ (triggerBlocks_trigger _ _)
    (TriggerFrame.trans _ _ _ (triggerExposure_trigger _ _) (triggerHeadstate_trigger _))

end Sys2Proof.Machine
end

