-- ==== Sys2Proof/Laws/Opening.lean ====
section
/-! SUPPORT. What opening a block does: the block record, its bank, its lanes and the entries they are bound to. -/

namespace Sys2Proof.Machine

/-- One entry at an opening: offered a lane when OWNED or COASTING (R128). -/
def bindStep (f : Word32) (s : State) (i : Nat) : State :=
  match s.tt.entry i with
  | some e => if e.state = .owned ∨ e.state = .coasting then offerLane i f s else s
  | none => s

/-- The entry at an index, when an opening block binds a lane to it (R128). -/
def ownerAt (s : State) (i : Nat) : Option Entry :=
  (s.tt.entry i).filter fun e => decide (e.state = .owned ∨ e.state = .coasting)

/-- The lanes that an opening block binds to entries in order (R128). -/
def lanesFor (f : Word32) (owners : List Entry) : List Lane := owners.zipIdx.map fun p => newLane p.1 p.2 f

theorem lanesFor_append (f : Word32) (es : List Entry) (e : Entry) :
    lanesFor f (es ++ [e]) = lanesFor f es ++ [newLane e es.length f] := by
  simp [lanesFor, List.zipIdx_append]

/-- What the first `k` entries have bound, with the lane fields and reclaim marks they have then (R128, R116). -/
structure Bound (f : Word32) (s u : State) (b : Block) (k : Nat) : Prop where
  ss : u.ss = { s.ss with openBlock := some { b with lanes := lanesFor f ((List.range k).filterMap (ownerAt s)) } }
  bound : ∀ i < k, ∀ e, ownerAt s i = some e →
    u.tt.entry i = some { e with lane := some ((List.range i).filterMap (ownerAt s)).length, reclaimMark := false }
  other : ∀ i, (k ≤ i ∨ ownerAt s i = none) → u.tt.entry i = s.tt.entry i

theorem bindFold_bound (f : Word32) (s : State) (b : Block) (hb : s.ss.openBlock = some b) (hl : b.lanes = []) :
    ∀ k, k ≤ 8 → Bound f s ((List.range k).foldl (bindStep f) s) b k
  | 0, _ => ⟨by cases b; simp_all [lanesFor]; rw [← hb], by simp, by simp⟩
  | k + 1, hk => by
    obtain ⟨h1, h2, h3⟩ := bindFold_bound f s b hb hl k (by omega)
    rw [List.range_succ, List.foldl_append, List.foldl_cons, List.foldl_nil]
    generalize (List.range k).foldl (bindStep f) s = u at h1 h2 h3
    have hu : u.tt.entry k = s.tt.entry k := h3 k (.inl le_rfl)
    have hlen : ((List.range k).filterMap (ownerAt s)).length ≤ k := by
      simpa using List.length_filterMap_le (ownerAt s) (List.range k)
    cases ho : ownerAt s k with
    | none =>
      have e : bindStep f u k = u := by
        unfold bindStep
        rw [hu]
        unfold ownerAt at ho
        cases he : s.tt.entry k with
        | none => rfl
        | some e =>
          rw [he] at ho
          simp only [Option.filter_eq_none_iff, Option.some.injEq, forall_eq', decide_eq_true_eq] at ho
          simp only [if_neg ho]
      rw [e]
      refine ⟨?_, fun i hi e he => ?_, fun i hi => h3 i ?_⟩
      · rw [h1]; simp [List.range_succ, List.filterMap_append, ho]
      · by_cases hik : i = k
        · subst hik; rw [ho] at he; cases he
        · exact h2 i (by omega) e he
      · rcases hi with hi | hi
        · exact .inl (by omega)
        · exact .inr hi
    | some e =>
      have he : s.tt.entry k = some e ∧ (e.state = .owned ∨ e.state = .coasting) := by
        unfold ownerAt at ho
        rw [Option.filter_eq_some_iff] at ho
        simpa using ho
      have e1 : bindStep f u k = offerLane k f u := by
        unfold bindStep
        rw [hu, he.1]
        simp only [if_pos he.2]
      have hob : u.ss.openBlock = some { b with lanes := lanesFor f ((List.range k).filterMap (ownerAt s)) } := by rw [h1]
      have hll : (lanesFor f ((List.range k).filterMap (ownerAt s))).length = ((List.range k).filterMap (ownerAt s)).length := by
        simp [lanesFor]
      rw [e1, offerLane_bound hob (hu.trans he.1) (by show _ < 8; rw [hll]; omega)]
      have hklt : k < u.tt.entries.length := entry_lt (hu.trans he.1)
      refine ⟨?_, fun i hi d hd => ?_, fun i hi => ?_⟩
      · simp only [h1, List.range_succ, List.filterMap_append, List.filterMap_cons, ho, List.filterMap_nil, lanesFor_append, hll]
      · by_cases hik : i = k
        · subst hik
          rw [ho] at hd; cases hd
          simp [TrackTable.entry, List.getD_eq_getElem?_getD, hklt, hll]
        · simp only [TrackTable.entry, List.getD_eq_getElem?_getD, List.getElem?_set_ne (Ne.symm hik)]
          have := h2 i (by omega) d hd
          simpa only [TrackTable.entry, List.getD_eq_getElem?_getD] using this
      · have hik : k ≠ i := by
          rintro rfl
          rcases hi with hi | hi
          · omega
          · rw [ho] at hi; cases hi
        simp only [TrackTable.entry, List.getD_eq_getElem?_getD, List.getElem?_set_ne hik]
        have := h3 i (by rcases hi with hi | hi; exact .inl (by omega); exact .inr hi)
        simpa only [TrackTable.entry, List.getD_eq_getElem?_getD] using this
/-- The Strip Store as an opening leaves it, but for the block (R127). -/
def StripStore.opened (ss : StripStore) (b : Block) : StripStore :=
  { ss with
    openBlock := some b, blockSeq := ss.blockSeq + 1
    banks := match ss.freeBank with
      | some k => ss.banks.set k (.filling (ss.blockSeq + 1))
      | none => ss.banks }

/-- The block record that an opening makes, with its lanes (R127, R67). -/
def openedBlock (cfg : Startup) (s : State) (lanes : List Lane) : Block :=
  { seq := s.ss.blockSeq + 1, run := s.src.runNumber, cls := s.src.pendingClass, openFrame := s.du.frameIndex
    openDistance := s.du.distance, closing := none, bank := s.ss.freeBank, lanes := lanes, ambient := false
    decimated := decide (keepFactor cfg.rules s.fe.queue.length s.du.rateLast < 8)
    starved := s.ss.freeBank.isNone, short := false }

/-- What opening a block does, whole: the Strip Store and the entries (R127, R128, R116), the keep factor (R63, R67),
the classes (R203) and the sticky flags. -/
theorem openBlock_opens (cfg : Startup) (s : State) :
    (openBlock cfg s).ss = s.ss.opened
        (openedBlock cfg s (lanesFor s.du.frameIndex ((List.range 8).filterMap (ownerAt s))))
      ∧ (openBlock cfg s).keep = keepFactor cfg.rules s.fe.queue.length s.du.rateLast
      ∧ (openBlock cfg s).src = { s.src with currentClass := s.src.pendingClass }
      ∧ (openBlock cfg s).lc = (if s.ss.freeBank = none then s.lc.raise .bankStarved else s.lc)
      ∧ (∀ i < 8, ∀ e, ownerAt s i = some e →
          (openBlock cfg s).tt.entry i =
            some { e with lane := some ((List.range i).filterMap (ownerAt s)).length, reclaimMark := false })
      ∧ ∀ i, ownerAt s i = none → (openBlock cfg s).tt.entry i = s.tt.entry i := by
  obtain ⟨u, h0, h1, h2, h3, h4, h5⟩ : ∃ u, openBlock cfg s = bindAtOpening s.du.frameIndex u
      ∧ u.ss = s.ss.opened (openedBlock cfg s []) ∧ u.tt = s.tt
      ∧ u.keep = keepFactor cfg.rules s.fe.queue.length s.du.rateLast
      ∧ u.src = { s.src with currentClass := s.src.pendingClass }
      ∧ u.lc = if s.ss.freeBank = none then s.lc.raise .bankStarved else s.lc := by
    unfold openBlock
    refine ⟨_, rfl, ?_, ?_, ?_, ?_, ?_⟩
    · dsimp only [governorEvaluate, State.setKeep_ss, StripStore.opened, openedBlock]
      cases s.ss.freeBank <;> rfl
    · simp [governorEvaluate]
    · simp [governorEvaluate]
    · simp [governorEvaluate]
    · simp only [governorEvaluate, State.setKeep_ss]
      cases s.ss.freeBank <;> rfl
  have ho : u.ss.openBlock = some (openedBlock cfg s []) := by rw [h1]; rfl
  have hb : ownerAt u = ownerAt s := by funext i; unfold ownerAt; rw [h2]
  obtain ⟨k1, k2, k3⟩ := bindFold_bound s.du.frameIndex u _ ho rfl 8 le_rfl
  have hf := (bindAtOpening_frame s.du.frameIndex u).1
  rw [hb] at k1 k2 k3
  rw [h0]
  refine ⟨?_, by rw [hf]; exact h3, by rw [hf]; exact h4, by rw [hf]; exact h5, k2, fun i hi => ?_⟩
  · exact k1.trans (by rw [h1]; rfl)
  · exact (k3 i (.inr hi)).trans (by rw [h2])

end Sys2Proof.Machine
end

