-- ==== Sys2Proof/Laws/Rows.lean ====
section
/-! SUPPORT. Sticky flags stay set; how a row is matched and the next row taken. -/

namespace Sys2Proof.Machine

/-! ### Sticky flags -/

theorem raise_sets (l : LinkController) (f : StickyFlag) : f.isSetIn (l.raise f).sticky = true := by
  cases f <;> simp [StickyFlag.isSetIn, LinkController.raise, StickyFlag.mask, StickyFlag.bit]

theorem raise_keeps_set (l : LinkController) (f g : StickyFlag) (h : g.isSetIn l.sticky = true) :
    g.isSetIn (l.raise f).sticky = true := by
  simp [StickyFlag.isSetIn, LinkController.raise] at *
  simp [h]

/-- Every sticky flag set in `s` is set in `t`. -/
def KeepsSticky (s t : State) : Prop :=
  ∀ g : StickyFlag, g.isSetIn s.lc.sticky = true → g.isSetIn t.lc.sticky = true

theorem KeepsSticky.refl (s : State) : KeepsSticky s s := fun _ h => h

theorem KeepsSticky.trans (a b c : State) (h1 : KeepsSticky a b) (h2 : KeepsSticky b c) : KeepsSticky a c :=
  fun g h => h2 g (h1 g h)

theorem queueSighting_sticky (g : Sighting) (s : State) : KeepsSticky s (queueSighting g s).1 := by
  intro f h
  unfold queueSighting
  split
  · simp only [State.setLc_lc, LinkController.join, LinkController.takeHead]
    split <;> exact h
  · exact raise_keeps_set _ _ _ h

theorem reportLane_sticky (cfg : Startup) (b : Block) (r : Lane → LaneResult) (s : State) (l : Lane) :
    KeepsSticky s (reportLane cfg b r s l) := by
  unfold reportLane
  split
  · exact .refl s
  · dsimp only
    split <;> exact queueSighting_sticky _ s

theorem reportBlock_sticky (cfg : Startup) (b : Block) (r : Lane → LaneResult) (s : State) :
    KeepsSticky s (reportBlock cfg b r s) :=
  foldl_related KeepsSticky .refl .trans _ (fun s l => reportLane_sticky cfg b r s l) _ s

theorem settleBlock_sticky (cfg : Startup) (s : State) (b : Block) : KeepsSticky s (settleBlock cfg s b) := by
  unfold settleBlock
  dsimp only
  split
  · exact reportBlock_sticky _ _ _ _
  · split
    · exact .refl s
    · split
      · unfold startCompute
        split <;> exact .refl s
      · exact .refl s

theorem settleReady_sticky (cfg : Startup) (s : State) : KeepsSticky s (settleReady cfg s) :=
  KeepsSticky.trans _ (s.setSs { s.ss with settling := s.ss.settling.filter fun b => owesFrames s b }) _ (fun _ h => h)
    (foldl_related KeepsSticky .refl .trans _ (fun s b => settleBlock_sticky cfg s b) _ _)

theorem closeBlock_sticky (cfg : Startup) (f : Word32) (s : State) : KeepsSticky s (closeBlock cfg f s) := by
  unfold closeBlock
  split
  · exact .refl s
  · dsimp only
    split
    · exact fun g h => settleBlock_sticky cfg _ _ g h
    · split
      · exact fun g h => settleBlock_sticky cfg _ _ g h
      · exact fun _ h => h

theorem naturalEnd_sticky (cfg : Startup) (f : Word32) (s : State) : KeepsSticky s (naturalEnd cfg f s) := by
  unfold naturalEnd
  split
  · split
    · exact closeBlock_sticky cfg f s
    · exact .refl s
  · exact .refl s

theorem treatAbsent_sticky (cfg : Startup) (s : State) (f : Word32) : KeepsSticky s (treatAbsent cfg s f) := by
  refine .trans _ _ _ ?_ (settleReady_sticky cfg _)
  unfold frameAbsent
  dsimp only
  split
  · exact naturalEnd_sticky cfg f s
  · exact fun g h => naturalEnd_sticky cfg f _ g h

/-! ### Rows -/

theorem kindAgrees_iff (k : Nibble) (c : FrameClass) :
    kindAgrees k c = true ↔ (c = .dark ∧ k = 0 ∨ c ≠ .dark ∧ k = 1) := by
  cases c <;> simp [kindAgrees]

/-- When a row matches an expected frame (R37). -/
theorem rowMatches_iff (row : SensorRow) (e : ExpectedRow) :
    rowMatches row e = true ↔
      BitVec.ofNat 8 e.frame.toNat = row.tag
        ∧ (e.cls = .dark ∧ row.kind = 0 ∨ e.cls ≠ .dark ∧ row.kind = 1) := by
  simp [rowMatches, kindAgrees_iff]

theorem splitAtMatch_none (row : SensorRow) (l : List ExpectedRow) (h : ∀ e ∈ l, ¬rowMatches row e = true) :
    splitAtMatch row l = none := by
  induction l with
  | nil => rfl
  | cons e es ih => simp [splitAtMatch, ih (fun x hx => h x (by simp [hx])), h e (by simp)]

/-- A row is taken for the newest expected frame that it matches (R37). -/
theorem splitAtMatch_some (row : SensorRow) (o : List ExpectedRow) (m : ExpectedRow) (n : List ExpectedRow)
    (hm : rowMatches row m = true) (h : ∀ e ∈ n, ¬rowMatches row e = true) :
    splitAtMatch row (o ++ m :: n) = some (o, m, n) := by
  induction o with
  | nil => simp [splitAtMatch, splitAtMatch_none row n h, hm]
  | cons e es ih => simp [splitAtMatch, ih]

/-- The stray count as Safety.lean counts it (R22). -/
theorem strayCount_eq (cfg : Startup) (cells : List RowCell) : strayCount cfg cells = strayCells cfg cells := by
  symm
  unfold strayCells strayCount
  rw [List.countP_eq_length_filter]
  have key : ∀ (l : List RowCell) (k : Nat) (p : Nat → RowCell → Bool),
      ((List.range l.length).filter fun i => p (k + i) (l.getD i ⟨0, 0⟩)).length =
        ((l.zipIdx k).filter fun q => p q.2 q.1).length := by
    intro l
    induction l with
    | nil => intro k p; rfl
    | cons c l ih =>
      intro k p
      rw [List.length_cons, List.range_succ_eq_map, List.zipIdx_cons, List.filter_cons, List.filter_cons,
        List.filter_map]
      have e :
          (List.filter ((fun i => p (k + i) ((c :: l).getD i ⟨0, 0⟩)) ∘ Nat.succ) (List.range l.length)).length =
            ((List.range l.length).filter fun i => p (k + 1 + i) (l.getD i ⟨0, 0⟩)).length := by
        congr 1
        apply List.filter_congr
        intro i _
        simp [Nat.add_assoc, Nat.add_comm 1]
      have ih' := ih (k + 1) p
      rw [← e] at ih'
      by_cases hp : p k c <;> simp [hp] <;> simpa using ih'
  have := key cells 0 fun i c => decide
    ((∀ w ∈ cfg.windows, ¬(w.enabled = true ∧ Nat.land i w.mask = Nat.land w.base w.mask))
      ∧ cfg.tStray ≤ c.intensity.toNat)
  simp only [Nat.zero_add] at this
  rw [this]
  congr 1
  apply List.filter_congr
  intro q _
  rw [Bool.eq_iff_iff]
  simp [isExcluded, windowMatches]

/-- A row in process is not disturbed. -/
theorem takeNextRow_busy {s : State} {p : RowInProcess} (h : s.fe.inProcess = some p) : takeNextRow s = s := by
  unfold takeNextRow
  rw [h]

/-- An idle Front End with an empty queue stays idle. -/
theorem takeNextRow_empty {s : State} (h : s.fe.queue = []) : takeNextRow s = s := by
  unfold takeNextRow
  rw [h]
  cases s.fe.inProcess <;> rfl

/-- An idle Front End takes the head of the queue (R42, R56). -/
theorem takeNextRow_takes {s : State} {r : QueuedRow} {rest : List QueuedRow} (h : s.fe.inProcess = none)
    (hq : s.fe.queue = r :: rest) :
    takeNextRow s =
      { s with fe := { s.fe with
        queue := rest
        inProcess := some
          { frame := r.frame, cls := r.cls, cells := r.cells
            gates := if r.cls = .gateOnly then gatesOf s.tt else []
            heights := [], processed := [], candidates := [], associated := false } } } := by
  unfold takeNextRow
  rw [h, hq]
  rfl

/-- Taking the next row changes the Front End alone. -/
theorem takeNextRow_frame (s : State) : takeNextRow s = { s with fe := (takeNextRow s).fe } := by
  unfold takeNextRow
  split <;> rfl

end Sys2Proof.Machine
end

