-- ==== Sys2Proof/Laws/Tracks.lean ====
section
/-! SUPPORT. What the association gives an entry, which entry an eviction picks, and where a new entry goes. -/

namespace Sys2Proof.Machine

/-! ### The association -/

/-- An entry that has taken or shared a candidate is found by its pair. -/
theorem find_taker {taken : List Pairing} (hn : (taken.map (·.entry)).Nodup) {q : Pairing} (hq : q ∈ taken) :
    taken.find? (fun p => p.entry == q.entry) = some q := by
  induction taken with
  | nil => cases hq
  | cons a as ih =>
    simp only [List.map_cons, List.nodup_cons] at hn
    rcases List.mem_cons.mp hq with rfl | h
    · simp
    · have : a.entry ≠ q.entry := fun he => hn.1 (he ▸ List.mem_map_of_mem h)
      simp [this, ih hn.2 h]

/-- An entry with a pair gets an ordinary hit when no other entry has its candidate, and else a shared hit with another
that has (R76, R77). -/
theorem rowResult_cases {taken : List Pairing} (hn : (taken.map (·.entry)).Nodup) {q : Pairing} (hq : q ∈ taken) :
    ((∀ q' ∈ taken, q'.cand = q.cand → q' = q) ∧ rowResult taken q.entry = .hit q.cand q.err)
    ∨ ∃ q' ∈ taken, q'.cand = q.cand ∧ q' ≠ q ∧ q'.entry ≠ q.entry
        ∧ rowResult taken q.entry = .shared q.cand q.err q'.entry := by
  have inj : ∀ a ∈ taken, ∀ b ∈ taken, a.entry = b.entry → a = b := by
    intro a ha b hb h
    have h1 := find_taker hn ha
    have h2 := find_taker hn hb
    rw [h] at h1; rw [h1] at h2; exact Option.some.inj h2
  unfold rowResult
  rw [find_taker hn hq]
  dsimp only
  cases hf : (takers taken q.cand).find? (· != q.entry) with
  | none =>
    refine .inl ⟨fun q' h1 h2 => ?_, rfl⟩
    rw [List.find?_eq_none] at hf
    have := hf q'.entry (by simp [takers]; exact ⟨q', ⟨h1, h2⟩, rfl⟩)
    exact inj _ h1 _ hq (by simpa using this)
  | some j =>
    right
    have h1 := List.mem_of_find?_eq_some hf
    have h2 := List.find?_some hf
    simp [takers] at h1
    obtain ⟨q', ⟨a, b⟩, rfl⟩ := h1
    simp at h2
    exact ⟨q', a, b, fun h => h2 (h ▸ rfl), h2, rfl⟩

/-- An entry without a pair gets a miss (R78). -/
theorem rowResult_miss {taken : List Pairing} {i : Nat} (h : ∀ q ∈ taken, q.entry ≠ i) : rowResult taken i = .miss := by
  unfold rowResult
  rw [List.find?_eq_none.mpr (by simpa using h)]

/-! ### Eviction -/

theorem pickFirst_none {r : Entry → Entry → Bool} {l : List (Nat × Entry)} (h : pickFirst r l = none) : l = [] := by
  cases l with
  | nil => rfl
  | cons p ps =>
    simp only [pickFirst] at h
    split at h
    · cases h
    · split at h <;> cases h

theorem pickFirst_mem {r : Entry → Entry → Bool} : ∀ {l : List (Nat × Entry)} {p}, pickFirst r l = some p → p ∈ l
  | [], p, h => by cases h
  | q :: qs, p, h => by
    simp only [pickFirst] at h
    split at h
    · cases h; simp
    · rename_i q' hq
      split at h
      · cases h; exact List.mem_cons_of_mem _ (pickFirst_mem hq)
      · cases h; simp

/-- What `pickFirst` picks is at least as good as every other, for an order that agrees with its test on the list. -/
theorem pickFirst_best {r : Entry → Entry → Bool} (le : Entry → Entry → Prop) (hrefl : ∀ a, le a a)
    (htr : ∀ a b c, le a b → le b c → le a c) :
    ∀ {l : List (Nat × Entry)} {p}, (∀ x ∈ l, ∀ y ∈ l, r x.2 y.2 = true → le x.2 y.2) →
      (∀ x ∈ l, ∀ y ∈ l, r x.2 y.2 = false → le y.2 x.2) →
      pickFirst r l = some p → ∀ q ∈ l, le p.2 q.2
  | [], p, _, _, h => by cases h
  | q :: qs, p, h1, h2, h => by
    simp only [pickFirst] at h
    split at h
    · rename_i hn
      cases h
      intro x hx
      rw [pickFirst_none hn] at hx
      simp at hx; subst hx; exact hrefl _
    · rename_i q' hq
      have ih := pickFirst_best le hrefl htr
        (fun x hx y hy => h1 x (List.mem_cons_of_mem _ hx) y (List.mem_cons_of_mem _ hy))
        (fun x hx y hy => h2 x (List.mem_cons_of_mem _ hx) y (List.mem_cons_of_mem _ hy)) hq
      have hm := List.mem_cons_of_mem q (pickFirst_mem hq)
      split at h
      · rename_i hr
        cases h
        intro x hx
        rcases List.mem_cons.mp hx with rfl | hx
        · exact h1 _ hm _ (by simp) hr
        · exact ih x hx
      · rename_i hr
        cases h
        have hr' := h2 _ hm q (by simp) (by simpa using hr)
        intro x hx
        rcases List.mem_cons.mp hx with rfl | hx
        · exact hrefl _
        · exact htr _ _ _ hr' (ih x hx)

theorem mem_evictable {t : TrackTable} {made : List Nat} {p : Nat × Entry} :
    p ∈ t.evictable made ↔ p.1 ∉ made ∧ t.entry p.1 = some p.2 := by
  obtain ⟨i, e⟩ := p
  simp only [TrackTable.evictable, List.mem_filterMap, TrackTable.entry, List.getD_eq_getElem?_getD]
  constructor
  · rintro ⟨⟨o, j⟩, hm, h⟩
    rw [List.mem_zipIdx_iff_getElem?] at hm
    simp only at hm h
    split at h
    · cases h
    · rename_i hc
      cases o with
      | none => cases h
      | some d => simp at h; obtain ⟨rfl, rfl⟩ := h; simp at hc; exact ⟨hc, by rw [hm]; rfl⟩
  · rintro ⟨h1, h2⟩
    refine ⟨(some e, i), ?_, ?_⟩
    · rw [List.mem_zipIdx_iff_getElem?]
      cases h : t.entries[i]? with
      | none => simp [h] at h2
      | some o => simp [h] at h2; subst h2; rfl
    · simp [h1]

/-- The entries of one state among which an eviction picks. -/
theorem mem_evictable_sort {t : TrackTable} {made : List Nat} {st : EntryState} {p : Nat × Entry} :
    p ∈ (t.evictable made).filter (fun p => p.2.state == st) ↔
      (p.1 ∉ made ∧ t.entry p.1 = some p.2) ∧ p.2.state = st := by
  simp [mem_evictable]

/-- Where nothing is picked among the entries of a state, no entry has it. -/
theorem no_entry_of_pickFirst_none {t : TrackTable} {made : List Nat} {st : EntryState} {r : Entry → Entry → Bool}
    (h : pickFirst r ((t.evictable made).filter fun p => p.2.state == st) = none) {j : Nat} {d : Entry} (hj : j ∉ made)
    (hd : t.entry j = some d) : d.state ≠ st := by
  intro hs
  have hm := (mem_evictable_sort (p := (j, d))).mpr ⟨⟨hj, hd⟩, hs⟩
  rw [pickFirst_none h] at hm
  cases hm

/-- Of two creation sequences below 2^31 the greater is the younger (R92). -/
theorem younger_lt {a b : Entry} (ha : a.seq.toNat < 2147483648) (hb : b.seq.toNat < 2147483648) :
    a.youngerThan b = decide (b.seq.toNat < a.seq.toNat) := by
  simp only [Entry.youngerThan]
  apply decide_eq_decide.mpr
  rw [BitVec.toInt_sub]
  have h1 : a.seq.toInt = a.seq.toNat := by rw [BitVec.toInt_eq_toNat_of_lt]; omega
  have h2 : b.seq.toInt = b.seq.toNat := by rw [BitVec.toInt_eq_toNat_of_lt]; omega
  rw [h1, h2, Int.bmod_def]
  norm_num
  split <;> omega

/-- The victim of an eviction is one (R93). -/
theorem victim_is {t : TrackTable} {made : List Nat} {i : Nat} (h : victim t made = some i) :
    ∃ e, IsVictim t made i e := by
  unfold victim at h
  simp only at h
  cases ht : pickFirst beforeTentative ((t.evictable made).filter fun p => p.2.state == .tentative) with
  | some p =>
    rw [ht] at h; simp at h; subst h
    obtain ⟨⟨h1, h2⟩, h3⟩ := mem_evictable_sort.mp (pickFirst_mem ht)
    refine ⟨p.2, h2, h1, .inl h3, ?_, ?_, ?_, ?_⟩
    · intro j d hj hd hs
      refine ⟨h3, ?_⟩
      refine pickFirst_best (fun a b => a.hits ≤ b.hits)
        (fun _ => le_refl _) (fun _ _ _ => le_trans) ?_ ?_ ht (j, d)
        (mem_evictable_sort.mpr ⟨⟨hj, hd⟩, hs⟩)
      · intro x _ y _ h; simp [beforeTentative] at h; omega
      · intro x _ y _ h; simp [beforeTentative] at h; omega
    · intro j d _ _ _ hh; exact absurd h3 hh
    · intro j d _ _ _ hh; rw [h3] at hh; cases hh
    · intro hseq j d hj hd hs he _ _
      have he' := he h3
      have := pickFirst_best (fun a b => a.hits < b.hits ∨ a.hits = b.hits ∧ b.seq.toNat ≤ a.seq.toNat)
        (fun _ => by omega) (fun _ _ _ => by omega) ?_ ?_ ht (j, d)
        (mem_evictable_sort.mpr ⟨⟨hj, hd⟩, hs.trans h3⟩)
      · simp only at this; omega
      · intro x hx y hy h
        rw [mem_evictable_sort] at hx hy
        simp [beforeTentative, younger_lt (hseq _ _ hx.1.2) (hseq _ _ hy.1.2)] at h; omega
      · intro x hx y hy h
        rw [mem_evictable_sort] at hx hy
        simp [beforeTentative, younger_lt (hseq _ _ hx.1.2) (hseq _ _ hy.1.2)] at h; omega
  | none =>
    rw [ht] at h
    have nt : ∀ j d, j ∉ made → t.entry j = some d → d.state ≠ .tentative :=
      fun _ _ => no_entry_of_pickFirst_none ht
    cases hw : pickFirst (beforeWatched t.zone) ((t.evictable made).filter fun p => p.2.state == .watched) with
    | some p =>
      rw [hw] at h; simp at h; subst h
      obtain ⟨⟨h1, h2⟩, h3⟩ := mem_evictable_sort.mp (pickFirst_mem hw)
      refine ⟨p.2, h2, h1, .inr (.inl h3), ?_, ?_, ?_, ?_⟩
      · intro j d hj hd hs; exact absurd hs (nt j d hj hd)
      · intro j d hj hd hs _
        refine ⟨h3, ?_⟩
        refine pickFirst_best (fun a b => t.zone.distance b.x ≤ t.zone.distance a.x)
          (fun _ => le_refl _) (fun _ _ _ => by intros; omega) ?_ ?_ hw (j, d)
          (mem_evictable_sort.mpr ⟨⟨hj, hd⟩, hs⟩)
        · intro x _ y _ h; simp [beforeWatched] at h; omega
        · intro x _ y _ h; simp [beforeWatched] at h; omega
      · intro j d _ _ _ hh; rw [h3] at hh; cases hh
      · intro hseq j d hj hd hs _ he _
        have he' := he h3
        have := pickFirst_best (fun a b => t.zone.distance b.x < t.zone.distance a.x
            ∨ t.zone.distance a.x = t.zone.distance b.x ∧ b.seq.toNat ≤ a.seq.toNat)
          (fun _ => by omega) (fun _ _ _ => by omega) ?_ ?_ hw (j, d)
          (mem_evictable_sort.mpr ⟨⟨hj, hd⟩, hs.trans h3⟩)
        · simp only at this; omega
        · intro x hx y hy h
          rw [mem_evictable_sort] at hx hy
          simp [beforeWatched, younger_lt (hseq _ _ hx.1.2) (hseq _ _ hy.1.2)] at h; omega
        · intro x hx y hy h
          rw [mem_evictable_sort] at hx hy
          simp [beforeWatched, younger_lt (hseq _ _ hx.1.2) (hseq _ _ hy.1.2)] at h; omega
    | none =>
      rw [hw] at h
      have nw : ∀ j d, j ∉ made → t.entry j = some d → d.state ≠ .watched :=
        fun _ _ => no_entry_of_pickFirst_none hw
      cases hc : pickFirst beforeCoasting ((t.evictable made).filter fun p => p.2.state == .coasting) with
      | none => rw [hc] at h; simp at h
      | some p =>
        rw [hc] at h; simp at h; subst h
        obtain ⟨⟨h1, h2⟩, h3⟩ := mem_evictable_sort.mp (pickFirst_mem hc)
        refine ⟨p.2, h2, h1, .inr (.inr h3), ?_, ?_, ?_, ?_⟩
        · intro j d hj hd hs; exact absurd hs (nt j d hj hd)
        · intro j d hj hd hs; exact absurd hs (nw j d hj hd)
        · intro j d hj hd hs _
          refine pickFirst_best (fun a b => b.misses ≤ a.misses)
            (fun _ => le_refl _) (fun _ _ _ => by intros; omega) ?_ ?_ hc (j, d)
            (mem_evictable_sort.mpr ⟨⟨hj, hd⟩, hs⟩)
          · intro x _ y _ h; simp [beforeCoasting] at h; omega
          · intro x _ y _ h; simp [beforeCoasting] at h; omega
        · intro hseq j d hj hd hs _ _ he
          have he' := he h3
          have := pickFirst_best (fun a b => b.misses < a.misses ∨ a.misses = b.misses ∧ b.seq.toNat ≤ a.seq.toNat)
            (fun _ => by omega) (fun _ _ _ => by omega) ?_ ?_ hc (j, d)
            (mem_evictable_sort.mpr ⟨⟨hj, hd⟩, hs.trans h3⟩)
          · simp only at this; omega
          · intro x hx y hy h
            rw [mem_evictable_sort] at hx hy
            simp [beforeCoasting, younger_lt (hseq _ _ hx.1.2) (hseq _ _ hy.1.2)] at h; omega
          · intro x hx y hy h
            rw [mem_evictable_sort] at hx hy
            simp [beforeCoasting, younger_lt (hseq _ _ hx.1.2) (hseq _ _ hy.1.2)] at h; omega

/-- With no victim only OWNED and YIELDED entries stand (R93). -/
theorem victim_none {t : TrackTable} {made : List Nat} (h : victim t made = none) :
    ∀ j d, j ∉ made → t.entry j = some d → d.state = .owned ∨ d.state = .yielded := by
  unfold victim at h
  simp only at h
  intro j d hj hd
  cases ht : pickFirst beforeTentative ((t.evictable made).filter fun p => p.2.state == .tentative) with
  | some p => rw [ht] at h; simp at h
  | none =>
    cases hw : pickFirst (beforeWatched t.zone) ((t.evictable made).filter fun p => p.2.state == .watched) with
    | some p => rw [ht, hw] at h; simp at h
    | none =>
      cases hc : pickFirst beforeCoasting ((t.evictable made).filter fun p => p.2.state == .coasting) with
      | some p => rw [ht, hw, hc] at h; simp at h
      | none =>
        have := no_entry_of_pickFirst_none ht hj hd
        have := no_entry_of_pickFirst_none hw hj hd
        have := no_entry_of_pickFirst_none hc hj hd
        cases hs : d.state <;> simp_all

/-! ### Free positions -/

theorem freePosition_some {t : TrackTable} {i : Nat} (h1 : i < t.entries.length) (h2 : t.entry i = none)
    (h3 : ∀ j < i, t.entry j ≠ none) : t.freePosition = some i := by
  unfold TrackTable.freePosition
  rw [List.findIdx?_eq_some_iff_getElem]
  refine ⟨h1, ?_, ?_⟩
  · simpa [TrackTable.entry, List.getD_eq_getElem?_getD, h1] using h2
  · intro j hj
    have := h3 j hj
    have hl : j < t.entries.length := by omega
    simpa [TrackTable.entry, List.getD_eq_getElem?_getD, hl, Option.isNone_iff_eq_none] using this

theorem freePosition_none {t : TrackTable} (h3 : ∀ j < t.entries.length, t.entry j ≠ none) : t.freePosition = none := by
  unfold TrackTable.freePosition
  rw [List.findIdx?_eq_none_iff]
  intro x hx
  obtain ⟨j, hj, rfl⟩ := List.mem_iff_getElem.mp hx
  have := h3 j hj
  simpa [TrackTable.entry, List.getD_eq_getElem?_getD, hj, Option.isNone_iff_eq_none, Option.isSome_iff_ne_none]
    using this

end Sys2Proof.Machine
end

