-- ==== Sys2Proof/Laws/Wear.lean ====
section
/-! SUPPORT. What a face run is, and what a lane result with wear says. -/

namespace Sys2Proof.Machine

/-- The first column of the run that holds face column `k`: face columns from it to `k`, and none just before it. -/
theorem runFirst_run (face : Nat → Bool) (k : Nat) (h : face k = true) :
    runFirst face k ≤ k ∧ (runFirst face k ≠ 0 → face (runFirst face k - 1) = false)
      ∧ ∀ j, runFirst face k ≤ j → j ≤ k → face j = true := by
  induction k with
  | zero => exact ⟨by simp [runFirst], by simp [runFirst], fun j _ hj => by rw [Nat.le_zero.mp hj]; exact h⟩
  | succ k ih =>
    unfold runFirst
    split
    · rename_i hk
      obtain ⟨a, b, c⟩ := ih hk
      refine ⟨by omega, b, fun j h1 h2 => ?_⟩
      by_cases hj : j = k + 1
      · rw [hj]
        exact h
      · exact c j h1 (by omega)
    · rename_i hk
      refine ⟨by omega, fun _ => by simpa using hk, fun j h1 h2 => ?_⟩
      rw [show j = k + 1 by omega]
      exact h

/-- The last column of the run that holds face column `k`, with `f` columns after it. -/
theorem runLast_run (face : Nat → Bool) (f : Nat) : ∀ k, face k = true →
    k ≤ runLast face k f ∧ runLast face k f ≤ k + f
      ∧ (runLast face k f ≠ k + f → face (runLast face k f + 1) = false)
      ∧ ∀ j, k ≤ j → j ≤ runLast face k f → face j = true := by
  induction f with
  | zero =>
    intro k h
    refine ⟨le_rfl, le_rfl, fun hn => absurd rfl hn, fun j h1 h2 => ?_⟩
    rw [show j = k from le_antisymm h2 h1]
    exact h
  | succ f ih =>
    intro k h
    unfold runLast
    split
    · rename_i hk
      obtain ⟨a, b, c, d⟩ := ih (k + 1) hk
      refine ⟨by omega, by omega, fun h => c (by omega), fun j h1 h2 => ?_⟩
      by_cases hj : j = k
      · rw [hj]
        exact h
      · exact d j (by omega) h2
    · rename_i hk
      refine ⟨by omega, by omega, fun _ => by simpa using hk, fun j h1 h2 => ?_⟩
      rw [show j = k by omega]
      exact h

/-- A face run clear of the window's edges: its columns are face columns, and the two edge columns are not (R146 to
R148). -/
structure ClearRun (face : Nat → Bool) (a b : Nat) : Prop where
  ordered : a ≤ b
  first : 1 ≤ a
  last : b ≤ 62
  before : face (a - 1) = false
  after : face (b + 1) = false
  within : ∀ j, a ≤ j → j ≤ b → face j = true

theorem faceRun_clear {face : Nat → Bool} {a b : Nat} (h : faceRun face = some (a, b))
    (he : ¬(a = 0 ∨ b = Config.columns - 1)) : ClearRun face a b := by
  unfold faceRun at h
  rw [Option.map_eq_some_iff] at h
  obtain ⟨k, hk, hkk⟩ := h
  have hface := List.find?_some hk
  have hmem := List.mem_of_find?_eq_some hk
  obtain ⟨a1, a2, a3⟩ := runFirst_run _ k hface
  obtain ⟨b1, b2, b3, b4⟩ := runLast_run _ (Config.columns - 1 - k) k hface
  simp only [Prod.mk.injEq] at hkk
  obtain ⟨e1, e2⟩ := hkk
  rw [e1] at a1 a2 a3
  rw [e2] at b1 b2 b3 b4
  have hk36 : k ≤ 36 := by
    simp [faceOrder] at hmem
    omega
  simp only [Config.columns] at he b2 b3
  refine ⟨by omega, by omega, by omega, a2 (by omega), b3 (by omega), fun j h1 h2 => ?_⟩
  by_cases hj : j ≤ k
  · exact a3 j h1 hj
  · exact b4 j (by omega) h2

/-- The face run is the one maximal run of face columns that holds the first face column of the nine of R146. -/
theorem faceRun_iff (f : Nat → Bool) (a b : Nat) :
    faceRun f = some (a, b) ↔
      (∀ c, a ≤ c → c ≤ b → c < 64 ∧ f c = true) ∧ (a = 0 ∨ ¬(a - 1 < 64 ∧ f (a - 1) = true))
        ∧ ¬(b + 1 < 64 ∧ f (b + 1) = true)
        ∧ ∃ before k after, [32, 31, 33, 30, 34, 29, 35, 28, 36] = before ++ k :: after
          ∧ (∀ c ∈ before, ¬(c < 64 ∧ f c = true)) ∧ a ≤ k ∧ k ≤ b := by
  constructor
  · intro h
    unfold faceRun at h
    rw [Option.map_eq_some_iff] at h
    obtain ⟨k, hk, hkk⟩ := h
    have hface := List.find?_some hk
    have hmem := List.mem_of_find?_eq_some hk
    obtain ⟨_, before, after, he, hb⟩ := List.find?_eq_some_iff_append.mp hk
    obtain ⟨a1, a2, a3⟩ := runFirst_run _ k hface
    obtain ⟨b1, b2, b3, b4⟩ := runLast_run _ (Config.columns - 1 - k) k hface
    simp only [Prod.mk.injEq] at hkk
    obtain ⟨e1, e2⟩ := hkk
    rw [e1] at a1 a2 a3
    rw [e2] at b1 b2 b3 b4
    have hk36 : k ≤ 36 := by
      simp [faceOrder] at hmem
      omega
    simp only [Config.columns] at b2 b3
    refine ⟨?_, ?_, ?_, before, k, after, he, ?_, a1, b1⟩
    · intro c h1 h2
      refine ⟨by omega, ?_⟩
      by_cases hj : c ≤ k
      · exact a3 c h1 hj
      · exact b4 c (by omega) h2
    · by_cases h0 : a = 0
      · exact .inl h0
      · right; rintro ⟨_, h⟩; rw [a2 h0] at h; cases h
    · rintro ⟨h1, h⟩; rw [b3 (by omega)] at h; cases h
    · rintro c hc ⟨_, h⟩; have := hb c hc; simp [h] at this
  · rintro ⟨h1, h2, h3, before, k, after, he, hbf, ha, hb⟩
    have hk := (h1 k ha hb)
    have hmem : k ∈ ([32, 31, 33, 30, 34, 29, 35, 28, 36] : List Nat) := by rw [he]; simp
    have hbl : ∀ c ∈ before, c < 64 := by
      intro c hc
      have : c ∈ ([32, 31, 33, 30, 34, 29, 35, 28, 36] : List Nat) := by rw [he]; simp [hc]
      simp at this; omega
    have hfind : faceOrder.find? f = some k := by
      rw [List.find?_eq_some_iff_append]
      refine ⟨hk.2, before, after, he, ?_⟩
      intro c hc
      have := hbf c hc
      have h64 := hbl c hc
      simpa [h64] using this
    obtain ⟨a1, a2, a3⟩ := runFirst_run f k hk.2
    obtain ⟨b1, b2, b3, b4⟩ := runLast_run f (Config.columns - 1 - k) k hk.2
    have hb63 := (h1 b (by omega) le_rfl).1
    have hk36 : k ≤ 36 := by simp at hmem; omega
    simp only [Config.columns] at b2 b3
    have ea : runFirst f k = a := by
      by_contra hne
      rcases Nat.lt_or_gt_of_ne hne with h | h
      · rcases h2 with h2 | h2
        · omega
        · exact h2 ⟨by omega, a3 (a - 1) (by omega) (by omega)⟩
      · have := a2 (by omega)
        rw [(h1 (runFirst f k - 1) (by omega) (by omega)).2] at this; cases this
    have eb : runLast f k (Config.columns - 1 - k) = b := by
      by_contra hne
      simp only [Config.columns] at hne b1 b2 b3 b4
      rcases Nat.lt_or_gt_of_ne hne with h | h
      · have := b3 (by omega)
        rw [(h1 _ (by omega) (by omega)).2] at this; cases this
      · exact h3 ⟨by omega, b4 (b + 1) (by omega) (by omega)⟩
    unfold faceRun
    rw [hfind]
    simp only [Option.map_some, ea, eb]

/-- The width in 1/64 of a cell lies from 64 to 4,096 (R148). -/
theorem width64_range {t : Nat} {s : List (List Nat)} {a b : Nat} (h : ClearRun (isFace t s) a b)
    (hn : 0 < s.length) :
    64 ≤ width64 (vote t s) s.length a b ∧ width64 (vote t s) s.length a b ≤ 4096 := by
  obtain ⟨h1, h2, h3, h4, h5, -⟩ := h
  unfold width64
  simp only [isFace, decide_eq_false_iff_not, Nat.not_lt] at h4 h5
  have e1 : 128 * vote t s (a - 1) / s.length ≤ 64 := by
    rw [Nat.div_le_iff_le_mul_add_pred hn]
    omega
  have e2 : 128 * vote t s (b + 1) / s.length ≤ 64 := by
    rw [Nat.div_le_iff_le_mul_add_pred hn]
    omega
  generalize 128 * vote t s (a - 1) / s.length = x at e1 ⊢
  generalize 128 * vote t s (b + 1) / s.length = y at e2 ⊢
  omega

/-- A lane result with wear, whole: the run it comes from and every item it holds (R144 to R154). -/
theorem laneResult_wear {cfg : Startup} {cls : WireClass} {lane : Lane} {w : WearPart}
    (h : (laneResult cfg cls lane).wear = some w) :
    8 ≤ lane.strips.length ∧ lane.crossing = false
      ∧ ∃ a b, faceRun (isFace cfg.tFace lane.strips) = some (a, b) ∧ ClearRun (isFace cfg.tFace lane.strips) a b
        ∧ laneResult cfg cls lane =
          let v := vote cfg.tFace lane.strips
          let q := halfWidth (width64 v lane.strips.length a b)
          { LaneResult.clear with
            wear := some
              { width := wornWidth (width64 v lane.strips.length a b), height := cls.nominal - wornDepth cls.radius q
                quality := qualityOf v lane.strips.length a b }
            widthSaturated := decide (cls.radius ≤ q)
            belowLimit := cfg.alertBelowLimit && decide (cls.nominal - wornDepth cls.radius q < cls.wearLimit) } := by
  unfold laneResult at h ⊢
  dsimp only at h ⊢
  split at h
  · cases h
  · rename_i hn
    rw [if_neg hn]
    split at h
    · cases h
    · rename_i a b hf
      split at h
      · cases h
      · rename_i hab
        split at h
        · cases h
        · rename_i hc
          refine ⟨by omega, by simpa using hc, a, b, hf, faceRun_clear hf hab, ?_⟩
          rw [if_neg hab, if_neg hc]

end Sys2Proof.Machine
end

