-- ==== Sys2Proof/WellFormed.lean ====
section
/-! DEFINITION. Which commands the outside can send: operands inside the ranges the spec gives them. -/

namespace Sys2Proof

/-- The SPI transfer clocks in 128 bytes, one level for each bit (R195); an entry index is 0 to 7 (R69); a station of
the Neighbour List is 1 to 8 (section 6.1). Every other command is well formed with any operand. -/
def WellFormed : Instr → Bool
  | .configReadDone levels => levels.length == 8 * Config.startupBytes
  | .yieldReclaim entry => entry < Config.entries
  | .neighbourAbsent station => 1 ≤ station && station ≤ 8
  | .notTakingExpire station => 1 ≤ station && station ≤ 8
  | .reset | .resetEnd _ | .configReadStart | .loadingEnd | .tick _ | .frameTrigger | .slotCycleEnd | .exposeRise
  | .exposeFall | .rateWindowEnd | .pole | .rowArrival _ | .darkRowDone | .rowAssociation | .litRowEnd
  | .wearComplete | .settleEnd | .attitudeHeld | .attitudeLost | .headstateTimer | .telegramReceived _
  | .telegramDiscard | .runTelegram | .attitudeTelegram | .headstateTelegram | .adoption | .sightingTelegram
  | .transmitStart | .arbitrationLost | .arbitrationWon | .transmitError | .transmitComplete | .lineIdle
  | .startBit | .srfRise => true

end Sys2Proof
end

