-- ==== Sys2Proof/Tests/Slice0.lean ====
section
/-! SUPPORT. Tests. The expected values are the spec's own: its tables and worked examples, or sums worked by hand from
them. The second half shows, for every statement that has hypotheses, a state and operands that meet them. -/

namespace Sys2Proof.Tests

open Sys2Proof Sys2Proof.Machine

/- One theorem at a time: each that asks the kernel to evaluate would otherwise hold a thread of its own. -/
set_option Elab.async false

/-! ### Helpers -/

/-- A command ends in a next state that passes a test. -/
def after (o : Host.Outcome State Fault Refusal) (p : State → Bool) : Bool :=
  match o with
  | .next t => p t
  | _ => false

def plainClass : WireClass := { radius := 6000, nominal := 12000, wearLimit := 9000, staggerLimit := 300000 }

/-- A start-up block in the style of the spec's typical installation: mounted at -192,000 µm, P = 3, E = 40. -/
def cfg0 : Startup :=
  { mountOffset := -192000, refHeight := 1850, pitch := 3, exposure := 40, slot := 1, bandLow := 1000
    bandHigh := 4000, tDet := 240, tFace := 1000, tStray := 100
    windows := [⟨true, 1984, 1984⟩, ⟨false, 0, 0⟩, ⟨false, 0, 0⟩, ⟨false, 0, 0⟩]
    rules := [⟨true, 0, 4, 2⟩, ⟨true, 1, 35, 4⟩, ⟨true, 1, 30, 6⟩, ⟨false, 1, 20, 7⟩]
    classes := List.replicate 4 plainClass, alertBelowLimit := true, alertStagger := true }

/-- Station 3, OPERATING, in frame 46 with the down-counter at 2 (the start of the example of section 1.5). -/
def op : State :=
  { State.reset with
    du := { DistanceUnit.reset with distance := 1000, downCounter := 2, frameIndex := 46 }
    ec := { ExposureController.reset with currentSlot := 1 }
    src := { StartupControl.reset with part := .operating cfg0, station := 3 } }

/-- The same head with its frame trigger due. -/
def due : State := op.setDu { op.du with downCounter := 0 }

def wire (st : EntryState) (tag : Byte) (x : Int) : Entry :=
  { state := st, tag := tag, seq := 1, x := x, v := 0, hits := 3, misses := 0, height := 3500, origin := none
    yieldAge := 0, sharedStreak := 0, partner := none, lane := none, yieldTarget := none, reclaimMark := false }

/-- The head with entries from index 0 on. -/
def withEntries (es : List Entry) (s : State) : State :=
  s.setTt { s.tt with entries := es.map some ++ List.replicate (8 - es.length) none }

def lane0 : Lane := newLane (wire .owned 7 0) 0 32

/-- The open block of section 1.5: opened at frame 32, on bank 0. -/
def block0 : Block :=
  { seq := 1, run := 7, cls := 0, openFrame := 32, openDistance := 958, closing := none, bank := some 0
    lanes := [lane0], ambient := false, decimated := false, starved := false, short := false }

/-- The head in RUN with that block open. -/
def running (s : State) : State :=
  (s.setSs { s.ss with openBlock := some block0, blockSeq := 1, banks := [.filling 1, .free] }).setSrc
    { s.src with runState := .run, runNumber := 7 }

def received (ident : Byte) (body : List Byte) (s : State) : State :=
  s.setLc { s.lc with rxBuffers := [⟨ident, body⟩] }

def present (mount : Int) (slot : Nat) : Neighbour :=
  { state := .present, mountOffset := some mount, slot := some slot, age := 0, notTaking := 0, heldBack := false }

def withNeighbours (ns : List Neighbour) (s : State) : State :=
  s.setNl (ns ++ List.replicate (8 - ns.length) .reset)

def darkRow (bright : Nat) : RowInProcess :=
  { frame := 47, cls := .dark, cells := List.replicate bright ⟨100, 0⟩ ++ [⟨99, 0⟩], gates := [], heights := []
    processed := [], candidates := [], associated := false }

def litRow (cls : FrameClass) (associated : Bool) : RowInProcess :=
  { frame := 46, cls := cls, cells := [], gates := [], heights := [], processed := [], candidates := []
    associated := associated }

def rowIn (r : RowInProcess) (s : State) : State := s.setFe { s.fe with inProcess := some r }

/-- A row of 2048 empty cells as the sensor sends it (R191). -/
def blankRow (hi lo kind : Nibble) : List Nibble := hi :: lo :: kind :: List.replicate 12288 0

/-! ### Which commands are well formed -/

theorem test_wf_read_of_128_bytes : WellFormed (.configReadDone (List.replicate 1024 .high)) = true := by
  simp only [WellFormed, List.length_replicate]; decide
theorem test_wf_refuses_short_read : WellFormed (.configReadDone (List.replicate 1023 .high)) = false := by
  decide +kernel
theorem test_wf_last_entry : WellFormed (.yieldReclaim 7) = true := by decide
theorem test_wf_refuses_entry_8 : WellFormed (.yieldReclaim 8) = false := by decide
theorem test_wf_stations : WellFormed (.neighbourAbsent 1) = true ∧ WellFormed (.notTakingExpire 8) = true := by decide
theorem test_wf_refuses_absent_0 : WellFormed (.neighbourAbsent 0) = false := by decide
theorem test_wf_refuses_absent_9 : WellFormed (.neighbourAbsent 9) = false := by decide
theorem test_wf_refuses_expire_0 : WellFormed (.notTakingExpire 0) = false := by decide
theorem test_wf_refuses_expire_9 : WellFormed (.notTakingExpire 9) = false := by decide

/-- No row of the table gives bits, so no word spells a command. -/
theorem test_no_word_spells_a_command : decodeTableWord 8 0 = none := by decide

/-! ### Start-up -/

/-- R194: STN2 high, STN1 low, STN0 high is 5, so station 6. -/
theorem test_straps : after (exec (.resetEnd 5) .reset) (fun t => t.src.station == 6) = true := by decide
/-- R194: the straps are read once. -/
theorem test_straps_once : after (exec (.resetEnd 0) op) (fun t => t.src.station == 3) = true := by decide +kernel

/-- R195: a missing memory reads as 128 bytes of 0xFF. -/
theorem test_missing_memory_reads_blank : isBlank (clockedIn []) = true := by decide +kernel

/-- R195: bits are sent and taken most significant first. -/
theorem test_bit_order :
    spiReadCommand = List.replicate 6 .low ++ [.high, .high] ++ List.replicate 16 .low
      ∧ clockedByte [.high, .low, .high, .low, .low, .low, .low, .high] 0 = 0xA1 := by decide

/-- R197: a blank memory gives mount offset -1 µm and announced slot 3. -/
theorem test_blank_memory_reports :
    intOf (field (List.replicate 128 0xFF) 0 3) = -1
      ∧ ((List.replicate 128 (0xFF : Byte)).getD 7 0).toNat % 4 = 3 := by decide

/-- The example of section 11.4: E 50, P 0, T_face below T_det, class 3 out of range, window 2 refused. -/
def messy : Startup :=
  { cfg0 with
    exposure := 50, pitch := 0, tDet := 240, tFace := 200
    windows := [⟨true, 1984, 1984⟩, ⟨true, 0, 1⟩, ⟨true, 1024, 1536⟩, ⟨true, 5, 2047⟩]
    classes := [plainClass, plainClass, plainClass, { plainClass with radius := 9500, nominal := 8000, wearLimit := 8500 }] }

def mended : Startup := trimStartup (tieStartup (clampStartup messy))

theorem test_clamps : mended.exposure = 40 ∧ mended.pitch = 1 ∧ mended.tDet = 240 ∧ mended.tFace = 240 := by decide
theorem test_ties_class :
    (mended.classes.map fun c => (c.radius, c.nominal, c.wearLimit)) =
      [(6000, 12000, 9000), (6000, 12000, 9000), (6000, 12000, 9000), (9000, 9000, 8500)] := by decide
theorem test_trims_windows : mended.windows.map (·.enabled) = [true, true, false, true] := by decide
theorem test_coverage : [1984, 1, 1536, 2047, 0].map (fun m => windowCoverage ⟨true, 0, m⟩) = [64, 1024, 512, 1, 2048] := by
  decide

/-! ### Ticks, triggers and the slot cycle: the example of section 1.5 -/

theorem test_tick_forward :
    after (exec (.tick .high) op) (fun t => t.du.distance == 1001 && t.du.downCounter == 1 && t.du.frameIndex == 46)
      = true := by decide +kernel

/-- The reversal tick of the example, from distance 1,002 and down-counter 3; the rate is negated (R73). -/
theorem test_tick_reverse :
    after (exec (.tick .low) (withEntries [{ wire .owned 7 0 with v := 400 }]
        (op.setDu { op.du with distance := 1002, downCounter := 3, frameIndex := 47 })))
      (fun t => t.du.distance == 1001 && t.du.downCounter == 2 && t.du.frameIndex == 47
        && t.du.direction == .reverse && (t.tt.entry 0).map (·.v) == some (-400)) = true := by decide +kernel

/-- The tick to 1,002 makes the trigger of frame 47 due; it reloads the down-counter with 3. -/
theorem test_trigger_reloads :
    after (exec .frameTrigger due) (fun t => t.du.downCounter == 3 && t.du.frameIndex == 47) = true := by
  decide +kernel

/-- R9: in slot 1 with E = 40 EXPOSE rises at 70 and falls at 110 µs. -/
theorem test_slot_times : (newCycle cfg0 47 1).riseAt = 70 ∧ (newCycle cfg0 47 1).fallAt = 110 := by decide

/-- R8, R12: a trigger during a cycle skips the frame and raises FRAME_SKIPPED, bit 10. -/
theorem test_trigger_skips :
    after (exec .frameTrigger (due.setEc { due.ec with cycle := some (newCycle cfg0 46 1) }))
      (fun t => t.ec.cycle == some (newCycle cfg0 46 1) && t.lc.sticky == 0x0400) = true := by decide +kernel

/-- R10: frame 47 is dark, so LASER stays low; frame 46 is lit. -/
theorem test_dark_frame_holds_laser :
    after (exec .exposeRise (op.setEc { op.ec with cycle := some (newCycle cfg0 47 1) }))
      (fun t => t.ec.expose == .high && t.ec.laser == .low && t.fe.expected == [⟨47, .dark⟩]) = true := by
  decide +kernel
theorem test_lit_frame_raises_laser :
    after (exec .exposeRise (op.setEc { op.ec with cycle := some (newCycle cfg0 46 1) }))
      (fun t => t.ec.laser == .high && t.fe.expected == [⟨46, .full⟩]) = true := by decide +kernel
theorem test_expose_falls :
    after (exec .exposeFall (op.setEc { op.ec with
        cycle := some { newCycle cfg0 46 1 with phase := .exposing }, expose := .high, laser := .high }))
      (fun t => t.ec.expose == .low && t.ec.laser == .low) = true := by decide +kernel
theorem test_cycle_ends :
    after (exec .slotCycleEnd (op.setEc { op.ec with cycle := some { newCycle cfg0 46 1 with phase := .exposed } }))
      (fun t => t.ec.cycle == none) = true := by decide +kernel

/-- R6: 23 triggers in the window that ends. -/
theorem test_rate_window :
    after (exec .rateWindowEnd (op.setDu { op.du with rateRunning := 23 }))
      (fun t => t.du.rateLast == 23 && t.du.rateRunning == 0) = true := by decide +kernel

/-- The first POLE of the example: a mark at 1,002, frame 47, and the block that began at 32 closes after frame 47. -/
theorem test_pole_closes :
    after (exec .pole ((running op).setDu { op.du with distance := 1002, downCounter := 3, frameIndex := 47 }))
      (fun t => t.du.mark == some ⟨1002, 47, false⟩ && t.ss.openBlock == none) = true := by decide +kernel
/-- The second POLE of the example overwrites: 1,000, frame 47, overwritten. -/
theorem test_pole_overwrites :
    after (exec .pole (op.setDu { op.du with frameIndex := 47, mark := some ⟨1002, 47, false⟩ }))
      (fun t => t.du.mark == some ⟨1000, 47, true⟩) = true := by decide +kernel

/-- The table of R29: at the 64th trigger the count is 0 and the state STEADY. -/
theorem test_settle_end :
    after (exec .settleEnd (op.setEc { op.ec with state := .settling, settleCount := 0 }))
      (fun t => t.ec.state == .steady) = true := by decide +kernel
/-- The table of R29: at trigger 120 the pending slot 3 becomes current and the count is 63. -/
theorem test_pending_slot_applies :
    (triggerSlot { op.ec with pendingSlot := some 3, state := .settling, settleCount := 64 }).currentSlot = 3
      ∧ (triggerSlot { op.ec with pendingSlot := some 3, state := .settling, settleCount := 64 }).settleCount = 63 := by
  decide

/-! ### Slots among neighbours -/

/-- The example of section 2.5: station 3 at +192 mm chooses slot 3. -/
theorem test_hop_chooses_slot_3 :
    chooseSlot { cfg0 with mountOffset := 192000 }
      (withNeighbours [present (-576000) 0, present (-192000) 1, .reset, present 576000 2]
        (op.setEc { op.ec with currentSlot := 0 })) = 3 := by decide +kernel

/-- The example of R27: with slots 0, 0, 1, 2, 2 and 3 announced, a head in slot 2 chooses slot 1. -/
theorem test_hop_takes_lowest_of_equals :
    chooseSlot cfg0 (withNeighbours [present 0 0, present 0 0, present 0 1, present 0 2, present 0 2, present 0 3]
      (op.setEc { op.ec with currentSlot := 2 })) = 1 := by decide +kernel

/-- R23: 16 bright cells are a stray dark frame, the second of which raises AMBIENT here (no neighbour collides). -/
theorem test_second_stray_row_is_ambient :
    after (exec .darkRowDone (rowIn (darkRow 16) (op.setEc { op.ec with strayStreak := 1 })))
      (fun t => t.ec.strayStreak == 0 && StickyFlag.ambient.isSetIn t.lc.sticky) = true := by decide +kernel
/-- R43: the raw intensities become the background. -/
theorem test_background_is_raw :
    after (exec .darkRowDone (rowIn (darkRow 2) op))
      (fun t => t.fe.background == [100, 100, 99] && t.ec.strayStreak == 0) = true := by decide +kernel

/-! ### Rows: the worked row of section 3.8 -/

/-- R46: the window of base and mask 1984 holds cells 1984 to 2047. -/
theorem test_window_edges :
    isExcluded cfg0.windows 1983 = false ∧ isExcluded cfg0.windows 1984 = true
      ∧ isExcluded cfg0.windows 2047 = true := by decide
/-- The intensities of the worked row; its heights are moved into a band of 12-bit codes (log 28). -/
theorem test_cleaning :
    cleanCell cfg0 210 1179 ⟨360, 3520⟩ = 150 ∧ cleanCell cfg0 205 1227 ⟨480, 3521⟩ = 275
      ∧ cleanCell cfg0 210 1179 ⟨360, 999⟩ = 0 ∧ cleanCell cfg0 210 2000 ⟨360, 3520⟩ = 0
      ∧ cleanCell cfg0 210 1179 ⟨100, 3520⟩ = 0 := by decide

/-- The four cells at the edges of the first wire, with 310 in between. -/
def workedCells : List Nat := List.replicate 1179 0 ++ [150] ++ List.replicate 47 310 ++ [275, 95]

theorem test_edges :
    leftEdge 240 workedCells ⟨1180, 1227⟩ = 18873 ∧ rightEdge 240 workedCells ⟨1180, 1227⟩ = 19635
      ∧ (18873 + 19635) / 2 = 19254 := by decide +kernel
theorem test_runs : brightRuns 240 workedCells = [⟨1180, 1227⟩] := by decide +kernel
/-- R53: of the cells 1201 and 1204 that share the highest intensity the lower is the peak. -/
theorem test_peak_is_lowest : peakCell [300, 1930, 900, 900, 1930, 300] 0 6 = 1 := by decide
/-- R49: 2 and 160 cells are candidate runs, 1 and 161 are not. -/
theorem test_run_lengths :
    [BrightRun.mk 0 0, ⟨0, 1⟩, ⟨0, 159⟩, ⟨0, 160⟩].map BrightRun.isCandidate = [false, true, true, false] := by decide

/-- The example of R56: cells 1306 to 1330 are searched. -/
theorem test_searched_cells :
    [1305, 1306, 1330, 1331].map (isSearched (-192000) [⟨-118500, 3000, 1⟩]) = [false, true, true, false] := by decide

/-- R35: a row of the wrong length raises SENSOR_FAULT, bit 8. -/
theorem test_malformed_row :
    after (exec (.rowArrival [0, 0, 1]) (op.setFe { op.fe with receiving := true }))
      (fun t => t.lc.sticky == 0x0100 && !t.fe.receiving) = true := by decide +kernel
theorem test_srf_rise : after (exec .srfRise op) (fun t => t.fe.receiving) = true := by decide +kernel

/-- R42: the row is released and the head of the queue is taken. -/
theorem test_lit_row_end :
    after (exec .litRowEnd (rowIn (litRow .full true) (op.setFe { op.fe with queue := [⟨47, .dark, []⟩] })))
      (fun t => t.fe.inProcess.map (·.frame) == some 47 && t.fe.queue == []) = true := by decide +kernel
/-- R78: an empty candidate list is a miss for an OWNED entry, which becomes COASTING. -/
theorem test_association_misses :
    after (exec .rowAssociation (rowIn (litRow .full false) (withEntries [wire .owned 7 0] op)))
      (fun t => (t.tt.entry 0).map (fun e => (e.state, e.misses)) == some (.coasting, 1)) = true := by decide +kernel

/-- R79: an entry made after the gates were taken has a miss, though another entry's gate found a run that lies nearer
to it; on a FULL row it takes that run. -/
theorem test_unsearched_entry_misses :
    let row (c : FrameClass) : RowInProcess := { litRow c true with gates := [⟨-192500, 3000, 1⟩] }
    let es := [some (wire .owned 7 (-192500)), some { wire .tentative 8 (-192100) with seq := 2 }]
    let c : Candidate := { left := 16284, right := 16484, centre := 16384, peak := 900, height := 3500, clipped := .no }
    (associate (-192000) ((row .gateOnly).searchedFor es) [c]).map (·.entry) = [0]
      ∧ (associate (-192000) ((row .full).searchedFor es) [c]).map (·.entry) = [1] := by decide +kernel

/-- R48: the raw cells are not kept, the height codes are. -/
theorem test_raw_cells_dropped :
    after (exec .rowAssociation (rowIn { litRow .full false with cells := [⟨300, 3500⟩] } op))
      (fun t => t.fe.inProcess.map (fun r => (r.cells, r.heights, r.processed)) == some ([], [3500], [300])) = true := by
  decide +kernel
/-- R94, R134: a shared hit marks CROSSING on a FULL row, and not on a GATE_ONLY one. -/
theorem test_crossing_on_full_rows :
    [FrameClass.full, .gateOnly].map (fun c =>
      (writeHit cfg0 op.su (litRow c true) { left := 0, right := 32, centre := 16, peak := 300, height := 3500, clipped := .no }
        true { seq := 1, run := 7, cls := 0, openFrame := 32, openDistance := 958, closing := none, bank := some 0
               lanes := [], ambient := false, decimated := false, starved := false, short := false } lane0).crossing) =
      [true, false] := by decide +kernel

/-! ### The governor: the example of section 4.5 -/

theorem test_governor :
    keepFactor cfg0.rules 1 22 = 8 ∧ keepFactor cfg0.rules 2 31 = 6 ∧ keepFactor cfg0.rules 4 36 = 2
      ∧ keepFactor cfg0.rules 0 35 = 4 := by decide

/-! ### The Track Table -/

/-- The example of R80, with the error either way. -/
theorem test_hit_update :
    ({ wire .owned 7 (-120000) with v := 400 }.hitUpdate 2100 3500).x = -118950
      ∧ ({ wire .owned 7 (-120000) with v := 400 }.hitUpdate 2100 3500).v = 662
      ∧ ({ wire .owned 7 (-120000) with v := 400 }.hitUpdate (-2100) 3500).v = 138 := by decide

/-- R75: the gate of a COASTING entry after one and after seven misses. -/
theorem test_coasting_gate :
    { wire .coasting 7 0 with misses := 1 }.gate = 4000 ∧ { wire .coasting 7 0 with misses := 7 }.gate = 10000 := by
  decide

/-- R92: of creation sequences 0 and 4,294,967,295 the first is the younger. -/
theorem test_younger_across_wrap :
    { wire .owned 7 0 with seq := 0 }.youngerThan { wire .owned 7 0 with seq := 4294967295 } = true := by decide

/-- R91: tags count up past those in use, 255 followed by 0. -/
theorem test_next_tag :
    nextFreeTag (withEntries [wire .owned 255 0, wire .owned 0 0] (op.setTt { op.tt with nextTag := 255 })) = 1 := by
  decide +kernel

/-- R103: the heads at -192,000 and +192,000 µm both compute 0; without its neighbour the first has the sector edge. -/
theorem test_zone :
    (ownZone [present (-576000) 0, .reset, present 192000 0] (-192000)).right = 0
      ∧ (ownZone [present (-576000) 0, present (-192000) 0] 192000).left = 0
      ∧ (ownZone [present (-576000) 0, present 576000 0] (-192000)).right = 64000 := by decide

/-- R105: 8,000 µm past a boundary that a neighbour set, and not past a sector edge. -/
theorem test_handover_target :
    handoverTarget ⟨-384000, 0, some 1, some 3⟩ 8000 = some 3 ∧ handoverTarget ⟨-384000, 0, some 1, some 3⟩ 7999 = none
      ∧ handoverTarget ⟨-384000, 0, some 1, some 3⟩ (-392000) = none
      ∧ handoverTarget ⟨-384000, 0, some 1, some 3⟩ (-392001) = some 1
      ∧ handoverTarget ⟨-448000, 64000, none, none⟩ 90000 = none := by decide

/-- R116: a reclaim makes the entry OWNED and holds its target back for 256 triggers. -/
theorem test_reclaim :
    after (exec (.yieldReclaim 0) (withEntries [{ wire .yielded 7 0 with yieldAge := 80, yieldTarget := some 4 }] op))
      (fun t => (t.tt.entry 0).map (fun e => (e.state, e.yieldAge, e.yieldTarget, e.reclaimMark)) ==
          some (.owned, 0, none, true) && (t.neighbour 4).notTaking == 256) = true := by decide +kernel
/-- R135, R129: a lane that a reclaim binds counts the trigger's own frame 46, lit and skipped. -/
theorem test_reclaim_counts_skipped :
    after (exec (.yieldReclaim 0) ((running (withEntries [{ wire .yielded 7 0 with yieldAge := 80, yieldTarget := some 4 }]
        op)).setEc { op.ec with cycle := some (newCycle cfg0 45 1) }))
      (fun t => t.ss.openBlock.map (fun b => b.lanes.map (·.skipped)) == some [0, 1]) = true := by decide +kernel
/-- R101: a record unheard for 128 triggers becomes ABSENT. -/
theorem test_absent :
    after (exec (.neighbourAbsent 4) (op.setNeighbour 4 { present 192000 0 with age := 128 }))
      (fun t => (t.neighbour 4).state == .absent && (t.neighbour 4).age == 128) = true := by decide +kernel
/-- R117: when the count has run out the neighbour sets the boundary again. -/
theorem test_not_taking_expires :
    after (exec (.notTakingExpire 4) (op.setNeighbour 4 { present 192000 0 with heldBack := true }))
      (fun t => t.tt.zone.right == 0 && t.tt.zone.rightSetBy == some 4) = true := by decide +kernel

/-- R159: 65 and 1,024 frames without a sample. -/
theorem test_attitude_held :
    after (exec .attitudeHeld (op.setSu ⟨some ⟨0, 0⟩, 65, .fresh⟩)) (fun t => t.su.state == .held) = true := by
  decide +kernel
theorem test_attitude_lost :
    after (exec .attitudeLost (op.setSu ⟨some ⟨0, 0⟩, 1024, .held⟩)) (fun t => t.su.state == .lost) = true := by
  decide +kernel

/-! ### Wear: the measured face of section 8.9 -/

/-- Votes 9, 13 to 24 and 6 over the columns -17 to +16, summing to 690 over the face. -/
def faceVotes (column : Nat) : Nat :=
  if column = 15 then 9 else if column = 48 then 6
  else if column < 16 ∨ 47 < column then 0 else if column ≤ 28 then 20
  else if column = 29 then 18 else if column = 30 then 16 else 23 + (column + 1) % 2

/-- Strip rows that give those votes: row r is bright in the columns whose vote is above r. -/
def faceStrips : List (List Nat) :=
  (List.range 24).map fun r => (List.range 64).map fun c => if r < faceVotes c then 1000 else 0

def faceLane : Lane := { lane0 with strips := faceStrips, hitFrames := 24 }

theorem test_width64 : width64 faceVotes 24 16 47 = 2128 := by decide
theorem test_wear_figures : wornWidth 2128 = 8313 ∧ halfWidth 2128 = 4156 ∧ isqrt 18727664 = 4327 ∧ wornDepth 6000 4156 = 1673 := by
  decide
theorem test_face_run : faceRun (isFace 1000 faceStrips) = some (16, 47) := by decide +kernel
theorem test_measured_face :
    ((laneResult cfg0 plainClass faceLane).wear.map fun w => (w.width, w.height)) = some (8313, 10327) := by
  decide +kernel
theorem test_few_rows :
    (laneResult cfg0 plainClass { faceLane with strips := faceStrips.take 7 }).fewRows = true := by decide +kernel

/-! ### Stagger: the worked case of section 9.3, and R156 -/

theorem test_lateral_rounding :
    carLateral 0 16388 = 63 ∧ carLateral 0 16380 = -63 ∧ carLateral 0 16385 = 16 ∧ carLateral 1400000 30000 = 1612750 := by
  decide

def attitudeCase : StaggerUnit := ⟨some ⟨12000, -15000⟩, 0, .fresh⟩
def hitCase : Candidate := { left := 19990, right := 20010, centre := 20000, peak := 900, height := 1450, clipped := .no }

theorem test_stagger_case :
    rawStagger { cfg0 with mountOffset := -300000 } attitudeCase hitCase = -218900
      ∧ carLateral (-300000) 20000 = -243500 := by decide

/-- R163: 1,612,750 µm is clamped to a metre, and a LOST attitude leaves it uncorrected. -/
theorem test_stagger_clamped :
    let a := accumulate { cfg0 with mountOffset := 1400000 } ⟨none, 0, .lost⟩ { hitCase with centre := 30000 } .empty
    a.staggerSum = 1000000 ∧ a.lateralSum = 1612750 ∧ a.clamped = true ∧ a.uncorrected = true := by decide

/-! ### The link -/

/-- The bit times of the table of R172. -/
theorem test_bit_times :
    (lineLevels 0x10 (List.replicate 4 0)).length = 83 ∧ (lineLevels 0x31 (List.replicate 11 0)).length = 146 := by
  decide +kernel

/-- The check value of this code over the digits 1 to 9, known of the polynomial, not from the spec. -/
theorem test_crc_check_value :
    crc16 [0x31, 0x32, 0x33, 0x34, 0x35, 0x36, 0x37, 0x38, 0x39] = 0x29B1 := by decide +kernel

/-- R202, the telegram (7, RUN, 2) of section 11.5 received, and cutting block 1 short. -/
theorem test_receive_run :
    receive (lineLevels 0x10 [0, 7, 1, 2]).tail = some ⟨0x10, [0, 7, 1, 2]⟩ := by decide +kernel
theorem test_run_closes :
    after (exec .runTelegram (received 0x10 [0, 7, 1, 2] (running op)))
      (fun t => t.ss.openBlock == none && t.src.pendingClass == 2 && t.src.runNumber == 7) = true := by decide +kernel
theorem test_run_repeats :
    after (exec .runTelegram (received 0x10 [0, 7, 1, 0] (running op))) (fun t => t.ss.openBlock.isSome) = true := by
  decide +kernel

/-- R176: a telegram cut short is bad, by a recessive separator. -/
theorem test_cut_short_is_bad : receive ((lineLevels 0x10 [0, 7, 1, 2]).take 30) = none := by decide +kernel
theorem test_bad_telegram :
    after (exec (.telegramReceived []) (op.setLc { op.lc with rx := .receiving }))
      (fun t => t.lc.rx == .waitIdle && StickyFlag.linkError.isSetIn t.lc.sticky) = true := by decide +kernel

/-- R158: a roll of 60,000 µrad is clamped to 50,000. -/
theorem test_attitude_clamps :
    after (exec .attitudeTelegram (received 0x20 [0, 0, 0x00, 0xEA, 0x60, 0xFF, 0xC5, 0x68] op))
      (fun t => t.su == ⟨some ⟨50000, -15000⟩, 0, .fresh⟩) = true := by decide +kernel

/-- R100: station 4 announces +192,000 µm and slot 2, and then CONFIG_BAD. -/
def headstateBytes (low : Byte) : List Byte := [0x02, 0xEE, 0x00, 0x82] ++ List.replicate 18 0 ++ [low]

theorem test_headstate_present :
    after (exec .headstateTelegram (received 0x54 (headstateBytes 0) op))
      (fun t => t.neighbour 4 == present 192000 2) = true := by decide +kernel
theorem test_headstate_config_bad :
    after (exec .headstateTelegram (received 0x54 (headstateBytes 1) op))
      (fun t => (t.neighbour 4).state == .absent) = true := by decide +kernel

/-- A HANDOVER to station 3 of tag 9 at +1,000 µm, rate -2, height 5,500. -/
def handoverBytes : List Byte := [3, 9, 0x00, 0x03, 0xE8, 0xFF, 0xFE, 0x0D, 0xAC, 0, 46]

theorem test_adoption_new :
    after (exec .adoption (received 0x34 handoverBytes op))
      (fun t => (t.tt.entry 0).map (fun e => (e.state, e.x, e.v, e.height, e.origin)) ==
        some (.owned, 1000, -2, 3500, some ⟨4, 9⟩)) = true := by decide +kernel
theorem test_adoption_in_place :
    after (exec .adoption (received 0x34 handoverBytes (withEntries [wire .watched 7 13000] op)))
      (fun t => (t.tt.entry 0).map (fun e => (e.state, e.x, e.origin)) == some (.owned, 13000, some ⟨4, 9⟩)) = true := by
  decide +kernel

/-- A SIGHTING of a wire at 0 µm, with an origin part when bit 1 of the flags is set. -/
def sightingBytes (flags : Byte) (origin : List Byte) : List Byte := List.replicate 38 0 ++ [flags] ++ origin

theorem test_sighting_resolves :
    after (exec .sightingTelegram (received 0x44 (sightingBytes 2 [3, 7])
        (withEntries [{ wire .yielded 7 0 with yieldTarget := some 4 }] op)))
      (fun t => t.tt.entry 0 == none) = true := by decide +kernel
/-- R121: at 0 µm both heads are 192,000 µm away, and station 4 is the higher, so station 3 keeps the wire. -/
theorem test_sighting_keeps :
    after (exec .sightingTelegram (received 0x44 (sightingBytes 0 [])
        ((withEntries [wire .owned 7 0] op).setNeighbour 4 (present 192000 0))))
      (fun t => (t.tt.entry 0).map (·.state) == some .owned) = true := by decide +kernel

/-- R122: a telegram of this head's own station raises DUPLICATE_STATION, bit 3. -/
theorem test_duplicate_station :
    after (exec .telegramDiscard (received 0x53 (headstateBytes 0) op))
      (fun t => t.lc.sticky == 0x0008 && t.lc.rxBuffers == []) = true := by decide +kernel

def handover0 : Handover := { target := 4, tag := 7, x := 8000, v := 0, height := 3500, frame := 46 }
def contending (driving : Bool) : State :=
  op.setLc { op.lc with txQueue := [.handover handover0], tx := .contending driving, rx := .ready }
def sending (t : Telegram) : State := op.setLc { op.lc with txQueue := [t], tx := .sending, rx := .receiving }

theorem test_transmit_start :
    after (exec .transmitStart (contending false))
      (fun t => t.lc.tx == .contending true && t.lc.lineOut.length == 146
        && t.lc.lineOut.take 9 ==
          [.dominant, .dominant, .dominant, .recessive, .recessive, .dominant, .dominant, .recessive, .recessive]) = true := by
  decide +kernel
theorem test_arbitration_lost :
    after (exec .arbitrationLost (contending true)) (fun t => t.lc.tx == .contending false && t.lc.txQueue.length == 1)
      = true := by decide +kernel
theorem test_arbitration_won :
    after (exec .arbitrationWon (contending true)) (fun t => t.lc.tx == .sending) = true := by decide +kernel
theorem test_transmit_complete :
    after (exec .transmitComplete (sending (.handover handover0)))
      (fun t => t.lc.tx == .idle && t.lc.txQueue == [] && t.lc.sticky == 0) = true := by decide +kernel
theorem test_transmit_error :
    after (exec .transmitError (sending (.handover handover0)))
      (fun t => t.lc.txQueue == [] && t.lc.sticky == 0x0080 && t.lc.rx == .waitIdle) = true := by decide +kernel
theorem test_line_idle : after (exec .lineIdle op) (fun t => t.lc.rx == .ready) = true := by decide +kernel
theorem test_start_bit :
    after (exec .startBit (op.setLc { op.lc with rx := .ready })) (fun t => t.lc.rx == .receiving) = true := by
  decide +kernel

/-- R183, R184: in CONFIG_BAD each timer queues a HEADSTATE that carries CONFIG_BAD. -/
theorem test_timer_reports :
    after (exec .headstateTimer (State.reset.setSrc { State.reset.src with part := .configBad (List.replicate 128 0xFF) }))
      (fun t => (headstateAt t.lc 0).map (fun h => (h.mountOffset, h.slot, h.sticky)) == some (-1, 3, 1)) = true := by
  decide +kernel

/-! ### Witnesses: for each statement with hypotheses, a state and operands that meet them -/

theorem quiet_of {s : State} (h : s.src.part = .operating cfg0) (h' : nothingDue s = true) : Quiet cfg0 s := ⟨h, h'⟩

theorem quiet_op : Quiet cfg0 op := quiet_of rfl (by decide +kernel)

theorem catchUp_op : catchUp op = op := catchUp_of_quiet quiet_op

/-- A table of one entry holds no other. -/
theorem entry_one {e d : Entry} {s : State} {j : Nat} (h : (withEntries [e] s).tt.entry j = some d) :
    j = 0 ∧ d = e := by
  match j with
  | 0 => simpa [withEntries, TrackTable.entry, eq_comm] using h
  | 1 | 2 | 3 | 4 | 5 | 6 | 7 => simp [withEntries, TrackTable.entry] at h
  | n + 8 => simp [withEntries, TrackTable.entry] at h

/-- A table of two entries holds no other. -/
theorem entry_two {e e' d : Entry} {s : State} {j : Nat} (h : (withEntries [e, e'] s).tt.entry j = some d) :
    j = 0 ∧ d = e ∨ j = 1 ∧ d = e' := by
  match j with
  | 0 => simpa [withEntries, TrackTable.entry, eq_comm] using h
  | 1 => simpa [withEntries, TrackTable.entry, eq_comm] using h
  | 2 | 3 | 4 | 5 | 6 | 7 => simp [withEntries, TrackTable.entry] at h
  | n + 8 => simp [withEntries, TrackTable.entry] at h

/-! #### Queue, start-up -/

theorem wit_step_front : (op.setPending [.pole, .lineIdle]).pending = .pole :: [.lineIdle] ∧ op.pending = [] := by
  decide +kernel

def inPart (p : PartState) : State := State.reset.setSrc { State.reset.src with part := p, station := 3 }

/-- The CRC register after 126 bytes of zeros, fourteen at a time. -/
theorem crc_zeros : crc16 (List.replicate 126 0) = 32465 := by
  have e : (List.replicate 126 (0 : Byte)) =
      List.replicate 14 0 ++ (List.replicate 14 0 ++ (List.replicate 14 0 ++ (List.replicate 14 0 ++
        (List.replicate 14 0 ++ (List.replicate 14 0 ++ (List.replicate 14 0 ++ (List.replicate 14 0 ++
          List.replicate 14 0))))))) := rfl
  have h1 : (List.replicate 14 (0 : Byte)).foldl crcByte 0xFFFF = 43370 := by decide +kernel
  have h2 : (List.replicate 14 (0 : Byte)).foldl crcByte 43370 = 44191 := by decide +kernel
  have h3 : (List.replicate 14 (0 : Byte)).foldl crcByte 44191 = 48697 := by decide +kernel
  have h4 : (List.replicate 14 (0 : Byte)).foldl crcByte 48697 = 39343 := by decide +kernel
  have h5 : (List.replicate 14 (0 : Byte)).foldl crcByte 39343 = 22553 := by decide +kernel
  have h6 : (List.replicate 14 (0 : Byte)).foldl crcByte 22553 = 24238 := by decide +kernel
  have h7 : (List.replicate 14 (0 : Byte)).foldl crcByte 24238 = 4541 := by decide +kernel
  have h8 : (List.replicate 14 (0 : Byte)).foldl crcByte 4541 = 30846 := by decide +kernel
  have h9 : (List.replicate 14 (0 : Byte)).foldl crcByte 30846 = 32465 := by decide +kernel
  rw [e, crc16]
  simp only [List.foldl_append, h1, h2, h3, h4, h5, h6, h7, h8, h9]

/-- A start-up block of 126 zeros and two bytes. -/
def zeroBlock (hi lo : Byte) : List Byte := List.replicate 126 0 ++ [hi, lo]

/-- It is good when the two bytes are the CRC. -/
theorem zeroBlock_good (hi lo : Byte) : crcGood (zeroBlock hi lo) = (hi.toNat * 256 + lo.toNat == 32465) := by
  have t : (zeroBlock hi lo).take 126 = List.replicate 126 0 := rfl
  have f : field (zeroBlock hi lo) 126 2 = [hi, lo] := rfl
  rw [crcGood, t, f, crc_zeros]
  simp [natOf]

theorem wit_reset_end : State.reset.src.part = .held := rfl
theorem wit_config_read :
    (inPart (.loading .waiting)).src.part = .loading .waiting
      ∧ (inPart (.loading (.reading spiReadCommand))).src.part = .loading (.reading spiReadCommand)
      ∧ (List.replicate 1024 Pin.high).length = 1024 := ⟨rfl, rfl, List.length_replicate⟩
theorem wit_loading_end :
    let block := zeroBlock 0x7E 0xD1
    let s := inPart (.loading (.checking block))
    s.src.part = .loading (.checking block) ∧ isBlank block = false ∧ crcGood block = true
      ∧ s.lc.txQueue = [] ∧ s.lc.tx = .idle ∧ s.ec.pendingSlot = none :=
  ⟨rfl, by decide +kernel, by rw [zeroBlock_good]; decide, rfl, rfl, rfl⟩
/-- A part with a HEADSTATE at the head of its queue, in some transmit state. -/
def reporting (p : PartState) (t : TxState) : State :=
  (inPart p).setLc { LinkController.reset with txQueue := [.headstate (headstateOf op)], tx := t }

/-- A blank block, one of a bad CRC, and a part that is CONFIG_BAD already, with no HEADSTATE, one in transmission, one
queued. -/
theorem wit_config_bad :
    (∀ b, (inPart (.loading (.checking b))).lc.txQueue = [] ∧ (inPart (.loading (.checking b))).lc.tx = .idle)
      ∧ isBlank (List.replicate 128 0xFF) = true
      ∧ isBlank (zeroBlock 0x7E 0xD0) = false ∧ crcGood (zeroBlock 0x7E 0xD0) = false
      ∧ (∀ b, (inPart (.configBad b)).src.part = .configBad b ∧ (inPart (.configBad b)).lc.txQueue = []
        ∧ (inPart (.configBad b)).lc.tx = .idle)
      ∧ (∀ b, (reporting (.configBad b) .sending).src.part = .configBad b
        ∧ (reporting (.configBad b) .sending).lc.sendsHeadstate = true)
      ∧ ∀ b, (reporting (.configBad b) (.contending true)).src.part = .configBad b
        ∧ (reporting (.configBad b) (.contending true)).lc.headstates = 1
        ∧ (reporting (.configBad b) (.contending true)).lc.txQueue[0]? = some (.headstate (headstateOf op)) :=
  ⟨fun _ => ⟨rfl, rfl⟩, by decide +kernel, by decide +kernel, by rw [zeroBlock_good]; decide,
    fun _ => ⟨rfl, rfl, rfl⟩, fun _ => ⟨rfl, rfl⟩, fun _ => ⟨rfl, rfl, rfl⟩⟩

/-- A block every field of which is in range: two windows of 1,024 and 512 cells enabled. -/
def rangedBlock : List Byte :=
  bytesOf 3 (-192000) ++ bytesOf 2 1850 ++ [3, 40, 1] ++ bytesOf 2 1000 ++ bytesOf 2 4000 ++ bytesOf 2 240 ++ bytesOf 2 240
    ++ bytesOf 2 4095 ++ [1] ++ bytesOf 2 0 ++ bytesOf 2 1 ++ [1] ++ bytesOf 2 1024 ++ bytesOf 2 1536
    ++ List.replicate 10 0 ++ [1, 0, 4, 2, 1, 1, 255, 8, 0, 0, 1, 1, 0, 1, 0, 1]
    ++ (List.replicate 4 (bytesOf 2 9000 ++ bytesOf 2 9000 ++ bytesOf 2 9000 ++ bytesOf 3 1000000)).flatten
    ++ List.replicate 38 0

theorem wit_block_in_range :
    let c := startupOf rangedBlock
    (-1500000 ≤ c.mountOffset ∧ c.mountOffset ≤ 1500000 ∧ c.mountOffset = -192000) ∧ c.refHeight = 1850
      ∧ c.pitch = 3 ∧ c.exposure = 40 ∧ c.slot = 1 ∧ (c.bandLow = 1000 ∧ c.bandHigh = 4000)
      ∧ (c.tDet = 240 ∧ c.tFace = 240) ∧ c.tStray = 4095
      ∧ (c.windows.length = 4 ∧ ∀ w ∈ c.windows, w.base < 2048 ∧ w.mask < 2048)
      ∧ ((c.windows.filter (·.enabled)).map windowCoverage).sum = 1536
      ∧ (c.rules.length = 4 ∧ ∀ r ∈ c.rules, (1 ≤ r.keep ∧ r.keep ≤ 8) ∧
          (r.source = 0 ∧ 1 ≤ r.threshold ∧ r.threshold ≤ 4 ∨ r.source = 1 ∧ r.threshold ≤ 255))
      ∧ (c.classes.length = 4 ∧ ∀ w ∈ c.classes, (3000 ≤ w.radius ∧ w.radius ≤ 9000) ∧
          (6000 ≤ w.nominal ∧ w.nominal ≤ 18000) ∧ w.radius ≤ w.nominal ∧ w.wearLimit ≤ w.nominal
          ∧ w.staggerLimit ≤ 1000000) := by decide +kernel

/-- The block of section 11.4: P = 0, E = 50, T_det 240 and T_face 200, window coverages 64, 1,024, 512 and 1, class 3
with r 9,500, Hnom 8,000 and Hmin 8,500. -/
def spoiltBlock : List Byte :=
  bytesOf 3 0 ++ bytesOf 2 1850 ++ [0, 50, 1] ++ bytesOf 2 1000 ++ bytesOf 2 4000 ++ bytesOf 2 240 ++ bytesOf 2 200
    ++ bytesOf 2 100 ++ ([[1984, 1984], [0, 1], [1024, 1536], [5, 2047]].flatMap fun (w : List Int) =>
      [1] ++ w.flatMap fun x => bytesOf 2 x)
    ++ [1, 0, 4, 2, 1, 1, 35, 4, 0, 0, 1, 1, 0, 1, 0, 1]
    ++ (List.replicate 3 (bytesOf 2 6000 ++ bytesOf 2 12000 ++ bytesOf 2 9000 ++ bytesOf 3 300000)).flatten
    ++ (bytesOf 2 9500 ++ bytesOf 2 8000 ++ bytesOf 2 8500 ++ bytesOf 3 300000) ++ List.replicate 38 0

/-- The example of section 11.4. -/
theorem test_block_brought_into_range :
    let c := acceptedOf spoiltBlock
    (c.pitch = 1 ∧ c.exposure = 40 ∧ c.tDet = 240 ∧ c.tFace = 240)
      ∧ c.windows = [⟨true, 1984, 1984⟩, ⟨true, 0, 1⟩, ⟨false, 1024, 1536⟩, ⟨true, 5, 2047⟩]
      ∧ c.classes[3]? = some { radius := 9000, nominal := 9000, wearLimit := 8500, staggerLimit := 300000 }
      ∧ wasClamped spoiltBlock = true ∧ wasTrimmed spoiltBlock = true := by decide +kernel

/-! #### Ticks and triggers -/

theorem wit_tick :
    Quiet cfg0 op ∧ op.du.direction = .forward
      ∧ Quiet cfg0 (op.setDu { op.du with direction := .reverse, distance := 0, downCounter := 1 })
      ∧ (inPart (.loading .waiting)).src.part = .loading .waiting
      ∧ (inPart (.configBad [])).src.part = .configBad [] ∧ State.reset.src.part = .held :=
  ⟨quiet_op, rfl, quiet_of rfl (by decide +kernel), rfl, rfl, rfl⟩
/-- The head with a block open, closed blocks not yet settled, the Wear Unit idle or on a bank, and rows queued. -/
def withBlocks (b : Option Block) (closed : List Block) (computing : Option Nat) (queue : List QueuedRow) (s : State) :
    State :=
  (s.setSs { s.ss with openBlock := b, settling := closed, computing := computing, banks := [.filling 1, .free] }).setFe
    { s.fe with queue := queue }

theorem quiet_withBlocks (b : Option Block) (c : List Block) (k : Option Nat) (q : List QueuedRow) :
    Quiet cfg0 (withBlocks b c k q op) := quiet_of rfl (by change nothingDue op = true; exact quiet_op.2)

/-- A close at frame 46 of a block open since frame 32: held settling, settled in each of the four ways, and starved. -/
theorem wit_closes :
    (∀ b c k q, Quiet cfg0 (withBlocks b c k q op) ∧ (withBlocks b c k q op).ss.openBlock = b
        ∧ (withBlocks b c k q op).ss.computing = k ∧ (withBlocks b c k q op).du.direction ≠ .reverse)
      ∧ Owes (withBlocks (some block0) [] none [⟨45, .full, []⟩] op) block0 46
      ∧ ¬Owes (withBlocks (some block0) [] none [] op) block0 46
      ∧ (block0.bank = some 0 ∧ block0.lanes ≠ [] ∧ ∀ l ∈ block0.lanes, l.hitFrames = 0)
      ∧ ({ block0 with lanes := [] }).bank = some 0 ∧ ({ lane0 with hitFrames := 3 }).hitFrames ≠ 0
      ∧ ({ block0 with bank := none, starved := true }).bank = none ∧ op.lc.txQueue.length + 8 ≤ 12 := by
  refine ⟨fun b c k q => ⟨quiet_withBlocks b c k q, rfl, rfl, by change op.du.direction ≠ _; decide⟩, ?_, ?_, by decide, rfl, by decide, rfl, by decide⟩
  · exact ⟨45, by decide +kernel, by decide⟩
  · rintro ⟨f, hf, _⟩
    simp [heldFrames, withBlocks, State.setSs, State.setFe, op, State.reset, FrontEnd.reset, ExposureController.reset]
      at hf

/-- The last frame of a closed block not yet settled is 44, and row 40 waits or does not. -/
def closed0 : Block := { block0 with closing := some ⟨44, 1000⟩ }

theorem wit_settles_after :
    (closed0.bank = some 0 ∧ closed0.closing = some ⟨44, 1000⟩)
      ∧ (∀ q, (withBlocks none [closed0] none q op).ss.settling = [closed0]
          ∧ (withBlocks none [] none q op).ss.settling = [])
      ∧ (∀ (r : RowInProcess) c q, Quiet cfg0 (rowIn r (withBlocks none c none q op)))
      ∧ Owes (withBlocks none [closed0] none [⟨40, .full, []⟩] op) closed0 44
      ∧ ¬Owes (withBlocks none [closed0] none [] op) closed0 44 := by
  refine ⟨⟨rfl, rfl⟩, fun _ => ⟨rfl, rfl⟩, fun r c q => quiet_of rfl (by change nothingDue op = true; exact quiet_op.2),
    ⟨40, by decide +kernel, by decide⟩, ?_⟩
  rintro ⟨f, hf, _⟩
  simp [heldFrames, withBlocks, State.setSs, State.setFe, op, State.reset, FrontEnd.reset, ExposureController.reset] at hf

/-- Two closed blocks that wait, the second of which has frames 45 to 46, of which row 46 waits or does not. -/
theorem wit_settles_two :
    let second : Block := { closed0 with seq := 2, openFrame := 45, closing := some ⟨46, 1001⟩, bank := some 1 }
    let s (q : List QueuedRow) := withBlocks none [closed0, second] none q op
    (∀ q, (s q).ss.settling = [closed0, second]) ∧ (closed0.bank = some 0 ∧ second.bank = some 1)
      ∧ Owes (s [⟨40, .full, []⟩, ⟨46, .full, []⟩]) closed0 44 ∧ Owes (s [⟨40, .full, []⟩, ⟨46, .full, []⟩]) second 46
      ∧ Owes (s [⟨46, .full, []⟩]) second 46 ∧ heldFrames (s []) = [] := by
  refine ⟨fun _ => rfl, ⟨rfl, rfl⟩, ⟨40, by decide +kernel, by decide⟩, ⟨46, by decide +kernel, by decide⟩,
    ⟨46, by decide +kernel, by decide⟩, by decide +kernel⟩

theorem wit_reversal :
    let s := running (withEntries [wire .owned 7 0] op)
    Quiet cfg0 s ∧ s.du.direction ≠ .reverse ∧ s.ss.openBlock ≠ none ∧ s.tt.entry 0 = some (wire .owned 7 0)
      ∧ s.tt.entry 1 = none :=
  ⟨quiet_of rfl (by decide +kernel), by decide, by decide +kernel, by decide +kernel, by decide +kernel⟩

/-- A trigger due, in frame 46, with a wire and an open block. -/
def dueRunning : State := running (withEntries [wire .owned 7 0, wire .yielded 8 90000] due)

theorem wit_trigger_ages :
    dueRunning.src.part = .operating cfg0 ∧ dueRunning.du.downCounter = 0
      ∧ dueRunning.tt.entry 1 = some (wire .yielded 8 90000) ∧ dueRunning.tt.entry 2 = none := by decide +kernel
theorem wit_trigger_starts_or_skips :
    dueRunning.ec.cycle = none
      ∧ (let s := due.setEc { due.ec with cycle := some (newCycle cfg0 46 3) }
         s.src.part = .operating cfg0 ∧ s.du.downCounter = 0 ∧ s.ec.cycle = some (newCycle cfg0 46 3)
          ∧ (s.du.frameIndex + 1).toNat % 32 ≠ 31)
      ∧ (let s := (dueRunning.setEc { due.ec with cycle := some (newCycle cfg0 45 3) }).setDu { due.du with frameIndex := 45 }
         s.src.part = .operating cfg0 ∧ s.du.downCounter = 0 ∧ s.ec.cycle = some (newCycle cfg0 45 3)
          ∧ s.ss.openBlock = some block0 ∧ (s.du.frameIndex + 1).toNat % 32 ≠ 0
          ∧ (s.du.frameIndex + 1).toNat % 32 ≠ 31 ∧ (s.du.frameIndex + 1).toNat % 8 ≠ 7)
      ∧ (let s := (dueRunning.setEc { due.ec with cycle := some (newCycle cfg0 30 3) }).setDu { due.du with frameIndex := 31 }
         s.src.part = .operating cfg0 ∧ s.du.downCounter = 0 ∧ s.src.runState = .run
          ∧ (s.du.frameIndex + 1).toNat % 32 = 0 ∧ (s.du.frameIndex + 1).toNat % 8 ≠ 7) := by decide +kernel
/-- The skip of frame 63, the last of its group, with a block open that has a bank or is starved. -/
theorem wit_trigger_skips_last :
    let s (b : Block) := (((running due).setSs { (running due).ss with openBlock := some b }).setEc
      { due.ec with cycle := some (newCycle cfg0 62 3) }).setDu { due.du with frameIndex := 62 }
    (∀ b, (s b).src.part = .operating cfg0 ∧ (s b).du.downCounter = 0 ∧ (s b).ec.cycle = some (newCycle cfg0 62 3)
        ∧ (s b).ss.openBlock = some b ∧ ((s b).du.frameIndex + 1).toNat % 32 = 31)
      ∧ block0.closing = none ∧ block0.bank = some 0 ∧ ({ block0 with bank := none }).bank = none :=
  ⟨fun _ => ⟨rfl, rfl, rfl, rfl, by change ((62 : Word32) + 1).toNat % 32 = 31; decide⟩, rfl, rfl, rfl⟩
theorem wit_trigger_opens :
    let s := (withEntries [wire .owned 7 0, wire .watched 8 90000, wire .coasting 9 60000] due).setSrc
      { due.src with runState := .run, pendingClass := 3 }
    s.src.part = .operating cfg0 ∧ s.du.downCounter = 0 ∧ s.src.runState = .run ∧ s.ss.openBlock = none
      ∧ s.ec.cycle = none ∧ s.ss.freeBank = some 0 := by decide +kernel

/-- An OWNED entry with an origin and a reclaim mark; and no bank FREE, at a trigger of a frame that is not frame 31. -/
theorem wit_trigger_opens_marked :
    let e : Entry := { wire .owned 7 0 with origin := some ⟨4, 9⟩, reclaimMark := true }
    let s := (withEntries [e] due).setSrc { due.src with runState := .run }
    let full := s.setSs { s.ss with banks := [.filling 1, .filling 2] }
    s.tt.entry 0 = some e ∧ (full.src.part = .operating cfg0 ∧ full.du.downCounter = 0 ∧ full.src.runState = .run)
      ∧ full.ss.openBlock = none ∧ full.ec.cycle = none ∧ full.ss.freeBank = none
      ∧ (full.du.frameIndex + 1).toNat % 32 ≠ 31 := by decide +kernel
/-- R128, R116: the lane of a block that opens takes the origin and the mark. R127: without a FREE bank, BANK_STARVED.
-/
theorem test_opening_takes_mark :
    let e : Entry := { wire .owned 7 0 with origin := some ⟨4, 9⟩, reclaimMark := true }
    let s := (withEntries [e] due).setSrc { due.src with runState := .run }
    after (exec .frameTrigger (s.setSs { s.ss with banks := [.filling 1, .filling 2] }))
      (fun t => t.ss.openBlock.map (fun b => b.lanes.map fun l => (l.slot, l.origin, l.reclaimed)) ==
          some [(0, some ⟨4, 9⟩, true)]
        && (t.tt.entry 0).map (fun e => (e.lane, e.reclaimMark)) == some (some 0, false)
        && StickyFlag.bankStarved.isSetIn t.lc.sticky) = true := by decide +kernel

/-- A trigger due at the end of a group of 32, with a block open since frame 5 and a row of frame 31 queued. -/
def groupEnd : State :=
  let s := running due
  ((s.setDu { s.du with frameIndex := 31 }).setSs { s.ss with openBlock := some { block0 with openFrame := 5 } }).setFe
    { s.fe with queue := [⟨31, .dark, []⟩] }

theorem wit_group_start :
    groupEnd.src.part = .operating cfg0 ∧ groupEnd.du.downCounter = 0 ∧ groupEnd.src.runState = .run
      ∧ (groupEnd.du.frameIndex + 1).toNat % 32 = 0
      ∧ groupEnd.ss.openBlock = some { block0 with openFrame := 5 } ∧ block0.bank ≠ none ∧ block0.lanes ≠ []
      ∧ ∃ r ∈ groupEnd.fe.queue, (r.frame - 5).toNat ≤ (groupEnd.du.frameIndex - 5).toNat := by decide +kernel
def sighting0 : Telegram := .sighting (sightingOf cfg0 block0 .clear lane0)

/-- The trigger of frame 63 due, with a queue and a transmit state; in RUN a block is open. -/
def queued (q : List Telegram) (t : TxState) : State :=
  ((running due).setDu { due.du with frameIndex := 62, mark := some ⟨958, 60, true⟩ }).setLc
    { due.lc with txQueue := q, tx := t }

def handovers (n : Nat) : List Telegram := List.replicate n (.handover handover0)

/-- No HEADSTATE queued; one in transmission; one that waits; a full queue with its oldest SIGHTING at 2, behind one in
transmission at 0; and a full queue with nothing but HANDOVERs. -/
theorem wit_trigger_headstate :
    (∀ q t, (queued q t).src.part = .operating cfg0 ∧ (queued q t).du.downCounter = 0
        ∧ ((queued q t).du.frameIndex + 1).toNat % 32 = 31 ∧ (queued q t).ec.cycle = none
        ∧ (queued q t).ss.openBlock ≠ none ∧ (queued q t).du.mark = some ⟨958, 60, true⟩)
      ∧ (queued [] .idle).lc.headstates = 0
      ∧ (let s := (due.setDu { due.du with frameIndex := 62 }).setEc { due.ec with cycle := some (newCycle cfg0 62 1) }
         s.src.runState ≠ .run ∧ s.ec.cycle ≠ none ∧ s.ss.openBlock = none)
      ∧ (queued [.headstate (headstateOf op)] .sending).lc.sendsHeadstate = true
      ∧ (let l := (queued [sighting0, .headstate (headstateOf op)] .sending).lc
         l.headstates = 1 ∧ l.txQueue[1]? = some (.headstate (headstateOf op)))
      ∧ (let l := (queued (sighting0 :: .handover handover0 :: sighting0 :: handovers 9) .sending).lc
         l.headstates = 0 ∧ 12 ≤ l.txQueue.length ∧ l.txQueue[2]? = some sighting0 ∧ l.txQueue[0]? = some sighting0
          ∧ l.txQueue[1]? = some (.handover handover0))
      ∧ (let l := (queued (handovers 12) (.contending false)).lc
         l.headstates = 0 ∧ 12 ≤ l.txQueue.length ∧ ∀ x ∈ l.txQueue, x.isSighting = false)
      ∧ (let l := (queued (handovers 11 ++ [.headstate (headstateOf op)]) (.contending false)).lc
         l.headstates = 1 ∧ 12 ≤ l.txQueue.length ∧ l.txQueue[11]? = some (.headstate (headstateOf op))
          ∧ ∀ x ∈ l.txQueue, x.isSighting = false) :=
  ⟨fun _ _ => ⟨rfl, rfl, by change ((62 : Word32) + 1).toNat % 32 = 31; decide, rfl, by change some block0 ≠ none; simp, rfl⟩, by decide +kernel, by decide +kernel,
    by decide +kernel, by decide +kernel, by decide +kernel, by decide +kernel, by decide +kernel⟩
theorem wit_not_due : Quiet cfg0 op := quiet_op
/-- A head to which a trigger, a reclaim, an absence and the end of a settling are owed. -/
theorem wit_owed :
    let s := ((withEntries [{ wire .yielded 7 0 with yieldAge := 80, yieldTarget := some 4 }] due).setNeighbour 2
      { present 192000 0 with age := 128 }).setEc { op.ec with state := .settling }
    s.src.part = .operating cfg0 ∧ 1 ≤ cfg0.pitch ∧ s.Sized ∧ nothingDue s = false
      ∧ (inPart (.loading .waiting)).src.part.isOperating = false :=
  ⟨rfl, by decide, ⟨by decide +kernel, by decide +kernel, by decide +kernel, fun b h => by cases h⟩, by decide +kernel, rfl⟩
theorem wit_ageing :
    op.src.part = .operating cfg0 ∧ op.du.downCounter ≠ 0
      ∧ (let s := op.setEc { op.ec with state := .settling }
         s.ec.state = .settling ∧ s.ec.settleCount = 0 ∧ s.du.downCounter ≠ 0)
      ∧ (let s := op.setSu ⟨some ⟨0, 0⟩, 65, .fresh⟩
         s.su.state = .fresh ∧ 65 ≤ s.su.age ∧ s.du.downCounter ≠ 0)
      ∧ (let s := op.setSu ⟨some ⟨0, 0⟩, 1024, .held⟩
         s.su.state ≠ .lost ∧ 1024 ≤ s.su.age ∧ s.du.downCounter ≠ 0)
      ∧ (let r := { present 192000 0 with age := 128, heldBack := true }
         let s := withNeighbours [.reset, .reset, .reset, .reset, .reset, .reset, .reset, r] op
         s.nl[7]? = some r ∧ r.state = .present ∧ 128 ≤ r.age ∧ r.heldBack = true ∧ r.notTaking = 0
          ∧ s.du.downCounter ≠ 0) := by decide +kernel

def yielded80 : Entry := { wire .yielded 7 9000 with yieldAge := 80, yieldTarget := some 4 }

theorem wit_reclaim :
    let s := running (withEntries [yielded80] op)
    let full := s.setSs { s.ss with openBlock := some { block0 with lanes := List.replicate 8 lane0 } }
    (s.src.part = .operating cfg0 ∧ s.du.downCounter ≠ 0 ∧ s.tt.entry 0 = some yielded80
        ∧ yielded80.state = .yielded ∧ 80 ≤ yielded80.yieldAge ∧ yielded80.yieldTarget = some (3 + 1)
        ∧ s.nl[3]? = some .reset ∧ s.ss.openBlock = some block0 ∧ block0.lanes.length < 8)
      ∧ full.tt.entry 0 = some yielded80 ∧ full.nl[3]? = some .reset ∧ full.src.part = .operating cfg0
      ∧ full.ss.openBlock.all (fun b => decide (8 ≤ b.lanes.length)) = true
      ∧ (let c := s.setEc { s.ec with cycle := some (newCycle cfg0 45 1) }
         c.tt.entry 0 = some yielded80 ∧ c.ec.cycle = some (newCycle cfg0 45 1) ∧ c.du.frameIndex = 46
          ∧ c.du.frameIndex.toNat % 8 ≠ 7) := by decide +kernel

/-! #### The slot cycle, the rate window, pole marks -/

def inPhase (p : ExposurePhase) (expected : List ExpectedRow) : State :=
  (op.setEc { op.ec with cycle := some { newCycle cfg0 47 1 with phase := p } }).setFe { op.fe with expected := expected }

theorem quiet_inPhase (p : ExposurePhase) (l : List ExpectedRow) : Quiet cfg0 (inPhase p l) :=
  quiet_of rfl (by change nothingDue op = true; exact quiet_op.2)

theorem wit_slot_cycle :
    (∀ p, Quiet cfg0 (inPhase p [⟨46, .full⟩])
        ∧ (inPhase p [⟨46, .full⟩]).ec.cycle = some { newCycle cfg0 47 1 with phase := p })
      ∧ (inPhase .waiting [⟨46, .full⟩]).fe.expected.length < 2 :=
  ⟨fun p => ⟨quiet_inPhase p _, rfl⟩, by decide⟩
theorem wit_third_exposure :
    let s := running (inPhase .waiting [⟨45, .full⟩, ⟨46, .full⟩])
    Quiet cfg0 s ∧ s.ec.cycle = some (newCycle cfg0 47 1) ∧ s.fe.expected = [⟨45, .full⟩, ⟨46, .full⟩]
      ∧ s.ss.openBlock = some block0 ∧ block0.closing = none ∧ s.ss.settling = [] ∧ (45 : Word32).toNat % 8 ≠ 7
      ∧ (inPhase .waiting [⟨45, .full⟩, ⟨46, .full⟩]).ss.openBlock = none :=
  ⟨quiet_of rfl (by decide +kernel), by decide +kernel, by decide +kernel, by decide +kernel, rfl, rfl, by decide, rfl⟩
/-- The oldest of the two is the dark frame 31 of the open block; or the dark frame 39. -/
theorem wit_third_exposure_last :
    let s (f : Word32) := (running (inPhase .waiting [⟨f, .dark⟩, ⟨46, .full⟩])).setSs
      { op.ss with openBlock := some { block0 with openFrame := 20 } }
    (∀ f, Quiet cfg0 (s f) ∧ (s f).fe.expected = [⟨f, .dark⟩, ⟨46, .full⟩]
        ∧ (s f).ss.openBlock = some { block0 with openFrame := 20 } ∧ (s f).ss.settling = [])
      ∧ (31 : Word32).toNat % 32 = 31 ∧ (31 - 20 : Word32).toNat ≤ (op.du.frameIndex - 20).toNat
      ∧ (39 : Word32).toNat % 8 = 7 ∧ (39 : Word32).toNat % 32 ≠ 31 :=
  ⟨fun _ => ⟨quiet_of rfl (by change nothingDue op = true; exact quiet_op.2), rfl, rfl, rfl⟩, by decide, by decide,
    by decide, by decide⟩
/-- The oldest is lit frame 40 of closed block 1, not yet settled, whose lane has hits. -/
def settling40 : State :=
  withBlocks none [{ closed0 with lanes := [{ lane0 with hitFrames := 3 }] }] none []
    (inPhase .waiting [⟨40, .full⟩, ⟨46, .full⟩])

theorem wit_third_exposure_settling :
    Quiet cfg0 settling40 ∧ settling40.ec.cycle = some (newCycle cfg0 47 1)
      ∧ settling40.fe.expected = [⟨40, .full⟩, ⟨46, .full⟩] ∧ (40 : Word32).toNat % 32 ≠ 31
      ∧ settling40.ss.settling.length = 1 :=
  ⟨quiet_of rfl (by change nothingDue op = true; exact quiet_op.2), rfl, rfl, by decide, rfl⟩
/-- R40, R135, R132: the absent frame is counted in the closed block's lane, and the block settles with it. -/
theorem test_absent_in_closed_block :
    after (exec .exposeRise settling40) (fun t => t.ss.settling == []
      && t.ss.banks.any fun b => match b with
        | .computing c => c.lanes.map (fun l => (l.absent, l.status)) == [(1, .done)]
        | _ => false) = true := by decide +kernel
theorem wit_rate_window :
    Quiet cfg0 op ∧ (inPart (.loading .waiting)).src.part = .loading .waiting
      ∧ (inPart (.configBad [])).src.part = .configBad [] := ⟨quiet_op, rfl, rfl⟩
theorem wit_pole :
    let s := running (inPhase .exposed [⟨46, .full⟩])
    Quiet cfg0 op ∧ op.src.runState ≠ .run ∧ Quiet cfg0 s ∧ s.src.runState = .run
      ∧ s.ss.openBlock = some block0 ∧ Owes s block0 46
      ∧ (∀ b k q, let u := (withBlocks b [] k q op).setSrc { op.src with runState := .run }
          Quiet cfg0 u ∧ u.src.runState = .run ∧ u.ss.openBlock = b) :=
  ⟨quiet_op, by decide, quiet_of rfl (by decide +kernel), rfl, rfl, ⟨46, by decide +kernel, by decide⟩,
    fun b k q => ⟨quiet_of rfl (by change nothingDue op = true; exact quiet_op.2), rfl, rfl⟩⟩

/-! #### Rows -/

/-- The sensor sends a row with the tag of two nibbles, lit or not. -/
theorem blankRow_read (hi lo kind : Nibble) :
    ∃ row, sensorRowOf (blankRow hi lo kind) = some row ∧ row.tag = hi ++ lo ∧ row.kind = kind := by
  have h : (List.replicate 12288 (0 : Nibble)).length = 12288 := List.length_replicate
  rw [blankRow]
  generalize List.replicate 12288 (0 : Nibble) = rest at h
  exact ⟨⟨hi ++ lo, kind, cellsOf rest⟩, by simp only [sensorRowOf, List.length_cons, h]; rfl, rfl, rfl⟩

def receiving (expected : List ExpectedRow) (queue : List QueuedRow) (p : Option RowInProcess) : State :=
  op.setFe { op.fe with receiving := true, expected := expected, queue := queue, inProcess := p }

theorem quiet_receiving (e : List ExpectedRow) (q : List QueuedRow) (p : Option RowInProcess) :
    Quiet cfg0 (receiving e q p) :=
  quiet_of rfl (by change nothingDue op = true; exact quiet_op.2)

/-- A row of another length; and a dark row, though the frame of its tag is a lit one. -/
theorem wit_bad_rows :
    let s := receiving [⟨45, .full⟩, ⟨46, .gateOnly⟩] [] none
    Quiet cfg0 s ∧ s.fe.receiving = true ∧ (List.replicate 12290 (0 : Nibble)).length ≠ 12291
      ∧ ∃ row, sensorRowOf (blankRow 2 14 0) = some row
          ∧ ∀ e ∈ s.fe.expected, ¬(BitVec.ofNat 8 e.frame.toNat = row.tag
            ∧ (e.cls = .dark ∧ row.kind = 0 ∨ e.cls ≠ .dark ∧ row.kind = 1)) := by
  refine ⟨quiet_receiving _ _ _, rfl, by rw [List.length_replicate]; decide, ?_⟩
  obtain ⟨row, h, ht, hk⟩ := blankRow_read 2 14 0
  refine ⟨row, h, ?_⟩
  rw [ht, hk]
  decide

/-- Frame 46 is expected after 45 and before 47; the queue is empty, or full while a row is in process. -/
theorem wit_row_arrival :
    (∀ q p, Quiet cfg0 (receiving [⟨45, .full⟩, ⟨46, .gateOnly⟩, ⟨47, .dark⟩] q p))
      ∧ (∃ row, sensorRowOf (blankRow 2 14 1) = some row ∧ BitVec.ofNat 8 (46 : Word32).toNat = row.tag
          ∧ row.kind = 1
          ∧ ∀ e ∈ [ExpectedRow.mk 47 .dark], ¬(BitVec.ofNat 8 e.frame.toNat = row.tag
            ∧ (e.cls = .dark ∧ row.kind = 0 ∨ e.cls ≠ .dark ∧ row.kind = 1)))
      ∧ (let s := receiving [] (List.replicate 3 ⟨44, .full, []⟩) (some (litRow .full false))
         s.fe.inProcess = some (litRow .full false) ∧ s.fe.queue.length < 4)
      ∧ (let s := receiving [] [] none
         s.fe.inProcess = none ∧ s.fe.queue = [])
      ∧ (let s := receiving [] (List.replicate 4 ⟨44, .full, []⟩) (some (litRow .full false))
         s.fe.inProcess = some (litRow .full false) ∧ 4 ≤ s.fe.queue.length)
      ∧ (let s := (withBlocks none [closed0] none [] op).setFe
           { op.fe with receiving := true, expected := [⟨46, .gateOnly⟩, ⟨47, .dark⟩] }
         Quiet cfg0 s ∧ s.fe.expected = [] ++ ⟨46, .gateOnly⟩ :: [⟨47, .dark⟩] ∧ s.fe.receiving = true
          ∧ s.fe.queue.length < 4 ∧ s.ss.settling = [closed0]) := by
  refine ⟨fun _ _ => quiet_receiving _ _ _, ?_, by decide, by decide, by decide,
    quiet_of rfl (by change nothingDue op = true; exact quiet_op.2), rfl, rfl, by decide, rfl⟩
  obtain ⟨row, h, ht, hk⟩ := blankRow_read 2 14 1
  refine ⟨row, h, ?_, hk, ?_⟩ <;> rw [ht]
  · decide
  · rw [hk]; decide

/-- A GATE_ONLY row that is taken at once with the gate of an entry; a row that makes frame 45 absent, and one that is
dropped, with a block open; and the dark row of frame 63, its last, dropped. -/
theorem wit_row_arrival_open :
    let s (e : List ExpectedRow) (q : List QueuedRow) :=
      ((running (withEntries [wire .owned 7 0] (receiving e q none))).setDu { op.du with frameIndex := 63 })
    (∀ e q, Quiet cfg0 (s e q) ∧ (s e q).fe.receiving = true ∧ (s e q).fe.expected = e ∧ (s e q).fe.queue = q
        ∧ (s e q).fe.inProcess = none ∧ (s e q).ss.openBlock = some block0 ∧ (s e q).ss.settling = []
        ∧ (s e q).tt.entry 0 = some (wire .owned 7 0))
      ∧ block0.closing = none ∧ (45 : Word32).toNat % 32 ≠ 31 ∧ (46 : Word32).toNat % 32 ≠ 31
      ∧ 4 ≤ (List.replicate 4 (⟨44, .full, []⟩ : QueuedRow)).length ∧ (63 : Word32).toNat % 32 = 31
      ∧ ∀ e q, ((63 : Word32) - block0.openFrame).toNat ≤ ((s e q).du.frameIndex - block0.openFrame).toNat := by
  refine ⟨fun e q => ⟨quiet_of rfl ?_, rfl, rfl, rfl, rfl, rfl, rfl, rfl⟩, rfl, by decide, by decide, by decide,
    by decide, fun _ _ => le_refl _⟩
  change nothingDue (withEntries [wire .owned 7 0] op) = true
  decide +kernel

/-- Closed block 1 waits for its only frame, 44, whose row is still expected; block 2 is open from frame 45 to 63. -/
def inTurn (queue : List QueuedRow) : State :=
  { op with
    du := { op.du with frameIndex := 63 }
    fe := { op.fe with
      receiving := true, expected := [⟨44, .full⟩, ⟨63, .dark⟩], queue := queue
      inProcess := some { litRow .full false with frame := 39 } }
    ss := { op.ss with
      openBlock := some { block0 with
        seq := 2, openFrame := 45, bank := some 1, lanes := [{ lane0 with firstFrame := 45, hitFrames := 2 }] }
      settling := [{ closed0 with openFrame := 44, lanes := [{ lane0 with firstFrame := 44, hitFrames := 3 }] }]
      banks := [.filling 1, .filling 2] } }

/-- A queue that is full of the rows of frames 40 to 43, or has room. -/
def rows40 (n : Nat) : List QueuedRow := (List.range n).map fun i => ⟨BitVec.ofNat 32 (40 + i), .full, []⟩

/-- The dark row of frame 63, the last of block 2, makes frame 44 absent, and joins the queue or is dropped. -/
theorem wit_row_arrival_in_turn :
    (∀ q, Quiet cfg0 (inTurn q) ∧ (inTurn q).fe.receiving = true
        ∧ (inTurn q).fe.expected = [⟨44, .full⟩] ++ ⟨63, .dark⟩ :: [] ∧ (inTurn q).fe.queue = q
        ∧ (inTurn q).ss.settling.length = 1 ∧ ∃ p, (inTurn q).fe.inProcess = some p)
      ∧ (∃ row, sensorRowOf (blankRow 3 15 0) = some row ∧ BitVec.ofNat 8 (63 : Word32).toNat = row.tag ∧ row.kind = 0)
      ∧ (rows40 3).length < 4 ∧ ¬(rows40 4).length < 4 ∧ (44 : Word32).toNat % 32 ≠ 31 ∧ (63 : Word32).toNat % 32 = 31
      ∧ ((63 : Word32) - 45).toNat ≤ ((inTurn []).du.frameIndex - 45).toNat := by
  refine ⟨fun q => ⟨quiet_of rfl ?_, rfl, rfl, rfl, rfl, _, rfl⟩, ?_, by decide, by decide, by decide, by decide, by decide⟩
  · change nothingDue op = true
    exact quiet_op.2
  · obtain ⟨row, h, ht, hk⟩ := blankRow_read 3 15 0
    exact ⟨row, h, by rw [ht]; decide, hk⟩

/-- R37, R132: dropped, frame 63 ends block 2 only after block 1 has settled with frame 44, so the older is computed. -/
theorem test_absences_in_turn :
    let t := matchRow cfg0 ⟨63, 0, []⟩ (inTurn (rows40 4))
    t.ss.openBlock = none ∧ t.ss.settling = [] ∧ t.ss.computing = some 0
      ∧ t.ss.banks.map (fun b => match b with
          | .computing c => (0, c.seq, c.lanes.map (·.absent))
          | .waiting c => (1, c.seq, c.lanes.map (·.absent))
          | _ => (2, 0, [])) = [(0, 1, [1]), (1, 2, [0])]
      ∧ StickyFlag.queueDrop.isSetIn t.lc.sticky = true := by decide +kernel

/-- R132: a row of block 2 that joins the queue keeps it open, and block 1 settles with frame 44. -/
theorem test_absence_before_a_queued_row :
    let t := matchRow cfg0 ⟨63, 0, []⟩ (inTurn (rows40 3))
    t.ss.openBlock.isSome = true ∧ t.ss.settling = [] ∧ t.ss.computing = some 0
      ∧ t.fe.queue.map (·.frame) = [40, 41, 42, 63] := by decide +kernel

theorem wit_row_round_trip : (SensorRow.mk 46 1 (List.replicate 2048 ⟨1, 2⟩)).cells.length = 2048 :=
  List.length_replicate

def darkState (bright streak : Nat) (queue : List QueuedRow) : State :=
  (op.setEc { op.ec with strayStreak := streak }).setFe
    { op.fe with inProcess := some (darkRow bright), queue := queue }

theorem quiet_darkState (n k : Nat) (q : List QueuedRow) : Quiet cfg0 (darkState n k q) :=
  quiet_of rfl (by change nothingDue op = true; exact quiet_op.2)

theorem wit_dark_row :
    (∀ n k q, Quiet cfg0 (darkState n k q) ∧ (darkState n k q).fe.inProcess = some (darkRow n)
        ∧ (darkRow n).cls = .dark ∧ (darkState n k q).fe.queue = q ∧ (darkState n k q).ec.strayStreak = k)
      ∧ strayCount cfg0 (darkRow 15).cells = 15 ∧ strayCount cfg0 (darkRow 16).cells = 16 :=
  ⟨fun n k q => ⟨quiet_darkState n k q, rfl, rfl, rfl, rfl⟩, by decide +kernel, by decide +kernel⟩

/-- The dark row of frame 63, the last of the open block's group, in frame 63, with or without a second stray row. -/
theorem wit_dark_row_last :
    let s (n k : Nat) (q : List QueuedRow) := (running (rowIn { darkRow n with frame := 63 }
        ((darkState n k q).setDu { op.du with frameIndex := 63 })))
    (∀ n k q, Quiet cfg0 (s n k q) ∧ (s n k q).fe.inProcess = some { darkRow n with frame := 63 }
        ∧ (s n k q).fe.queue = q ∧ (s n k q).ec.strayStreak = k ∧ (s n k q).ss.openBlock = some block0
        ∧ (s n k q).ss.settling = []
        ∧ ((63 : Word32) - block0.openFrame).toNat ≤ ((s n k q).du.frameIndex - block0.openFrame).toNat)
      ∧ block0.closing = none ∧ block0.bank = some 0 ∧ (63 : Word32).toNat % 32 = 31 :=
  ⟨fun n k q => ⟨quiet_of rfl (by change nothingDue op = true; exact quiet_op.2), rfl, rfl, rfl, rfl, rfl, le_refl _⟩, rfl,
    rfl, by decide⟩

/-- Station 2 collides with this head, station 3, in slot 1; or no station does. -/
theorem wit_interference :
    let s := darkState 16 1 []
    let t := withNeighbours [.reset, present 192000 1] s
    Quiet cfg0 s ∧ Quiet cfg0 t ∧ t.fe.inProcess = some (darkRow 16) ∧ 16 ≤ strayCount cfg0 (darkRow 16).cells
      ∧ t.ec.strayStreak ≠ 0 ∧ (darkRow 16).frame.toNat % 32 ≠ 31 ∧ t.ss.settling = []
      ∧ t.ec.state = .steady ∧ (t.neighbour 2).state = .present ∧ (t.neighbour 2).mountOffset = some 192000
      ∧ ((192000 : Int) - cfg0.mountOffset).natAbs ≤ 1024000 ∧ (t.neighbour 2).slot = some t.ec.currentSlot
      ∧ (∀ k ≤ 8, k ≠ 2 → (t.neighbour k).state ≠ .present) ∧ 2 < t.src.station
      ∧ ∀ k ≤ 8, (s.neighbour k).state ≠ .present :=
  ⟨quiet_darkState _ _ _, quiet_of rfl (by decide +kernel), rfl, by decide +kernel, by decide, by decide, rfl, rfl, rfl,
    rfl, by decide, rfl, by decide +kernel, by decide, by decide +kernel⟩

theorem wit_cleaning : [RowCell.mk 360 3520][0]? = some ⟨360, 3520⟩ := by decide

/-- A row of 2048 cells with one wire of three cells. -/
def wireRow : RowInProcess :=
  { litRow .full false with
    cells := List.replicate 1000 ⟨0, 0⟩ ++ List.replicate 3 ⟨900, 3500⟩ ++ List.replicate 1045 ⟨0, 0⟩ }

theorem wit_candidates : wireRow.cells.length = 2048 ∧ 1 ≤ cfg0.tDet := by
  refine ⟨?_, by decide⟩
  simp only [wireRow, List.length_append, List.length_replicate]
/-- The run of its three cells, found on a FULL row and by a gate on a GATE_ONLY row. -/
theorem wit_candidates_run :
    let p (i : Nat) : Nat := (cleanRow cfg0 [] wireRow.cells).getD i 0
    (searchRow cfg0 [] wireRow).2.2 = false ∧ wireRow.cls = .full
      ∧ (searchRow cfg0 [] { wireRow with cls := .gateOnly, gates := [⟨-197750, 3000, 1⟩] }).2.2 = false
      ∧ (cfg0.mountOffset + ((1001 : Int) - 1024) * 250 - (-197750)).natAbs ≤ 3000
      ∧ [p 1000, p 1001, p 1002] = [900, 900, 900] ∧ p 999 < cfg0.tDet ∧ p 1003 < cfg0.tDet := by decide +kernel
/-- R49: a run of 161 cells is no candidate and raises CANDIDATES_TRUNCATED. -/
theorem test_wide_return :
    let wide := { litRow .full false with
      cells := List.replicate 100 ⟨0, 0⟩ ++ List.replicate 161 ⟨900, 3500⟩ ++ List.replicate 1787 ⟨0, 0⟩ }
    (searchRow cfg0 [] wide).2 = ([], true) := by decide +kernel
/-- R54: of 9 runs the 8 with the highest peaks are kept, in order of their first cells; the last of the equals goes. -/
theorem test_nine_runs :
    let run (n : Nat) : List RowCell := ⟨0, 0⟩ :: List.replicate 2 ⟨BitVec.ofNat 12 n, 3500⟩
    let row := { litRow .full false with
      cells := [500, 700, 300, 800, 900, 300, 400, 600, 550].flatMap run ++ List.replicate 2021 ⟨0, 0⟩ }
    (searchRow cfg0 [] row).2.1.map (·.peak) = [500, 700, 300, 800, 900, 400, 600, 550]
      ∧ (searchRow cfg0 [] row).2.2 = true := by decide +kernel
theorem wit_candidates_some : (searchRow cfg0 [] wireRow).2.1.length = 1 := by decide +kernel

theorem quiet_rowIn (r : RowInProcess) : Quiet cfg0 (rowIn r op) :=
  quiet_of rfl (by change nothingDue op = true; exact quiet_op.2)

theorem wit_row_association :
    ∀ c ∈ [FrameClass.full, .gateOnly], Quiet cfg0 (rowIn (litRow c false) op)
      ∧ (rowIn (litRow c false) op).fe.inProcess = some (litRow c false) ∧ (litRow c false).cls ≠ .dark
      ∧ (litRow c false).associated = false := by
  intro c hc
  refine ⟨quiet_rowIn _, rfl, ?_, rfl⟩
  simp at hc
  rcases hc with rfl | rfl <;> decide
def candidateAt (c16 : Nat) : Candidate :=
  { left := c16 - 100, right := c16 + 100, centre := c16, peak := 900, height := 3500, clipped := .no }

/-- The full row of frame 46 with a candidate at the head's own mount offset. -/
def hitRow : RowInProcess := { litRow .full true with candidates := [candidateAt 16384] }

/-- A third hit that confirms a TENTATIVE entry as OWNED, a hit of an OWNED one, a shared hit, and misses of a
TENTATIVE, an OWNED and a COASTING entry, the last its eighth. -/
theorem wit_update :
    let t := { wire .tentative 7 (-192100) with hits := 2 }
    let c := { wire .coasting 7 0 with misses := 7 }
    (∀ e : Entry, (withEntries [e] op).tt.entry 0 = some e) ∧ hitRow.candidates[0]? = some (candidateAt 16384)
      ∧ ([(⟨0, 0, 100⟩ : Pairing)].map (·.entry)).Nodup ∧ ([(⟨0, 0, 100⟩ : Pairing), ⟨1, 0, -100⟩].map (·.entry)).Nodup
      ∧ t.state = .tentative ∧ (t.afterHit op.tt.zone 100 3500).state = .owned
      ∧ (wire .owned 7 0).state ≠ .tentative ∧ (wire .owned 7 0).missUpdate.misses < 8 ∧ 8 ≤ c.missUpdate.misses := by
  refine ⟨fun _ => rfl, rfl, by decide, by decide, rfl, by decide +kernel, by decide, by decide, by decide⟩

/-- Two OWNED entries that have shared hits for 16 rows, either one the younger; and one that has no partner. -/
theorem wit_merge :
    let a (n : Word32) : Entry := { wire .owned 7 0 with partner := some 1, sharedStreak := 16, seq := n }
    let b : Entry := { wire .owned 8 500 with partner := some 0, sharedStreak := 16, v := 100, seq := 5 }
    (∀ n, (withEntries [a n, b] op).tt.entry 0 = some (a n) ∧ (withEntries [a n, b] op).tt.entry 1 = some b)
      ∧ 0 < ((6 : Word32) - 5).toInt ∧ ((4 : Word32) - 5).toInt ≤ 0 ∧ ((a 6).v - b.v).natAbs ≤ 100
      ∧ (wire .owned 7 0).partner = none := by
  refine ⟨fun _ => ⟨rfl, rfl⟩, by decide, by decide, by decide, rfl⟩

/-- A clipped candidate; one in a table with a free position; a full table with a victim, and one with none. -/
theorem wit_creation :
    let c := candidateAt 16384
    let es (st : EntryState) := [0, 1, 2, 3, 4, 5, 6, 7].map fun i => wire st (BitVec.ofNat 8 i) (20000 * i)
    ({ c with clipped := .lowSide }).clipped ≠ .no ∧ c.clipped = .no
      ∧ (withEntries [wire .owned 7 0] op).tt.entry 1 = none ∧ (withEntries [wire .owned 7 0] op).tt.entry 0 ≠ none
      ∧ (∀ i, i < 8 → (withEntries (es .watched) op).tt.entry i ≠ none)
      ∧ farFromAll (withEntries (es .watched) op).tt (carLateral (-192000) c.centre) = true
      ∧ victim (withEntries (es .watched) op).tt [0] = some 1 ∧ victim (withEntries (es .yielded) op).tt [] = none := by
  decide +kernel

/-- A zone that stations 1 and 5 bound: OWNED and COASTING entries past either boundary and within, WATCHED ones well
inside and not, and a YIELDED one. -/
theorem wit_ownership :
    let z : Zone := ⟨-384000, 0, some 1, some 5⟩
    let s (e : Entry) := (withEntries [e] op).setTt { (withEntries [e] op).tt with zone := z }
    (∀ e, (s e).tt.entry 0 = some e ∧ (s e).tt.zone = z)
      ∧ z.right + 8000 ≤ (wire .owned 7 8000).x ∧ (wire .coasting 7 (-392001)).x < z.left - 8000
      ∧ (wire .owned 7 7999).x < z.right + 8000
      ∧ (z.left + 8000 ≤ (wire .watched 7 (-8001)).x ∧ (wire .watched 7 (-8001)).x < z.right - 8000)
      ∧ ¬(wire .watched 7 (-8000)).x < z.right - 8000 ∧ (wire .yielded 7 0).state = .yielded := by
  refine ⟨fun _ => ⟨rfl, rfl⟩, by decide, by decide, by decide, by decide, by decide, rfl⟩

/-- A hit handed on to the TAKING lane of its tag, and one of an entry freed or replaced since. -/
theorem wit_hand_on :
    let s := running (withEntries [wire .owned 7 (-192100)] op)
    ([(⟨0, 0, 100⟩ : Pairing)].map (·.entry)).Nodup ∧ s.tt.entry 0 = some (wire .owned 7 (-192100))
      ∧ hitRow.candidates[0]? = some (candidateAt 16384)
      ∧ s.ss.openBlock = some block0 ∧ lane0.status = .taking ∧ lane0.tag = 7
      ∧ (hitRow.frame - lane0.firstFrame).toNat ≤ (s.du.frameIndex - lane0.firstFrame).toNat
      ∧ (withEntries [{ wire .owned 7 0 with seq := 2 }] op).tt.entry 0 = some { wire .owned 7 0 with seq := 2 }
      ∧ op.tt.entry 0 = none := by decide +kernel

theorem wit_lit_row_end :
    Quiet cfg0 (rowIn (litRow .full true) op) ∧ (litRow .full true).cls ≠ .dark ∧ (litRow .full true).associated = true
      ∧ (rowIn (litRow .full true) op).fe.queue = []
      ∧ Quiet cfg0 (receiving [] [⟨47, .dark, []⟩] (some (litRow .full true))) :=
  ⟨quiet_rowIn _, by decide, rfl, rfl, quiet_receiving _ _ _⟩

/-! #### Track Table -/

/-- Two confirmed entries share the one candidate between them. -/
theorem wit_association :
    (associate (-192000) [some (wire .owned 7 (-192500)), some (wire .owned 8 (-191000)), none] [candidateAt 16384]).map
      (fun p => (p.entry, p.cand, p.err)) = [(0, 0, 500), (1, 0, -1000)] := by decide +kernel
/-- A TENTATIVE entry is left without the one candidate, which lies in its gate and which a confirmed entry took. -/
theorem wit_association_left_out :
    let es := [some (wire .owned 7 (-192100)), some (wire .tentative 8 (-191000))]
    (associate (-192000) es [candidateAt 16384]).map (·.entry) = [0]
      ∧ (carLateral (-192000) 16384 - (wire .tentative 8 (-191000)).x).natAbs ≤ (wire .tentative 8 (-191000)).gate := by
  decide +kernel
theorem wit_updates : (wire .owned 7 0).state ≠ .tentative := by decide
theorem wit_zone :
    (ownZone [present (-576000) 0, .reset, present 192000 0] (-192000)).leftSetBy = some 1
      ∧ (ownZone [present (-576000) 0, .reset, present 192000 0] (-192000)).rightSetBy = some 3
      ∧ (ownZone [] 0).leftSetBy = none
      ∧ (ownZone [present (-576000) 0, present (-576000) 1, present 319999 0, present 320000 0] (-192000)).leftSetBy = some 1
      ∧ (ownZone [present (-576000) 0, present (-576000) 1, present 319999 0, present 320000 0] (-192000)).rightSetBy =
          some 3 := by decide +kernel

/-! #### Governor, wear, stagger -/

theorem wit_keep_pattern : (134217727 : Nat) < 134217728 := by decide
/-- The second rule holds, at its threshold 35, and the first does not. -/
theorem wit_governor :
    let s := op.setDu { op.du with rateLast := 35 }
    cfg0.rules = [⟨true, 0, 4, 2⟩] ++ ⟨true, 1, 35, 4⟩ :: [⟨true, 1, 30, 6⟩, ⟨false, 1, 20, 7⟩]
      ∧ s.fe.queue.length < 4 ∧ s.du.rateLast = 35 ∧ (∀ r ∈ cfg0.rules, 1 ≤ r.keep ∧ r.keep ≤ 8)
      ∧ op.du.rateLast < 30 := by decide +kernel

/-- The Wear Unit computes bank 1; bank 0 waits with a lane that has hits. -/
def computing (other : Bank) : State :=
  op.setSs { op.ss with
    banks := [other, .computing { block0 with lanes := [faceLane, lane0] }], computing := some 1 }

theorem quiet_computing (b : Bank) : Quiet cfg0 (computing b) :=
  quiet_of rfl (by change nothingDue op = true; exact quiet_op.2)

theorem wit_wear_complete :
    (∀ o, Quiet cfg0 (computing o) ∧ (computing o).ss.computing = some 1
        ∧ (computing o).ss.banks[1]? = some (.computing { block0 with lanes := [faceLane, lane0] })
        ∧ (computing o).lc.txQueue.length = 0)
      ∧ cfg0.classes[block0.cls]? = some plainClass
      ∧ ([faceLane, lane0].filter fun l => l.hitFrames ≠ 0) = [faceLane]
      ∧ (computing .free).ss.banks.all (fun b => match b with | .waiting _ => false | _ => true) = true
      ∧ (computing (.waiting { block0 with lanes := [faceLane] })).ss.banks[0]? =
          some (.waiting { block0 with lanes := [faceLane] })
      ∧ faceLane.hitFrames ≠ 0 := by
  refine ⟨fun o => ⟨quiet_computing o, rfl, rfl, rfl⟩, by decide, ?_, rfl, rfl, by decide⟩
  rfl

/-- Two lanes to report, each the lane of an entry that holds its origin, with room for one SIGHTING. -/
def oneFits : State :=
  let lane (tag : Byte) : Lane := { faceLane with tag := tag, origin := some ⟨2, tag⟩ }
  let s := withEntries ([7, 8].map fun tag => { wire .owned tag 0 with origin := some ⟨2, tag⟩ }) (computing .free)
  (s.setSs { s.ss with banks := [.free, .computing { block0 with lanes := [lane 7, lane 8] }] }).setLc
    { s.lc with txQueue := List.replicate 11 sighting0, tx := .contending false }

/-- R111, R180: the first SIGHTING joins and its origin is cleared; the second is lost and keeps it. -/
theorem test_report_lost_keeps_origin :
    after (exec .wearComplete oneFits) (fun t => t.lc.txQueue.length == 12
      && StickyFlag.reportLost.isSetIn t.lc.sticky
      && (t.tt.entry 0).map (·.origin) == some none && (t.tt.entry 1).map (·.origin) == some (some ⟨2, 8⟩)) = true := by
  decide +kernel

theorem wit_sighting : closed0.closing = some ⟨44, 1000⟩ ∧ faceLane.hitFrames ≠ 0 := by decide
theorem wit_widths :
    (64 ≤ 64 ∧ 64 ≤ 4096) ∧ (64 ≤ 4096 ∧ 4096 ≤ 4096)
      ∧ (laneResult cfg0 plainClass faceLane).wear.isSome = true
      ∧ (laneResult cfg0 plainClass lane0).wear = none := by decide +kernel
theorem wit_depths : (3000 ≤ 3000 ∧ 3000 ≤ 9000 ∧ 125 ≤ 2999 ∧ 2999 < 3000) ∧ (3000 : Nat) ≤ 3000 := by decide
theorem wit_lane_results :
    3000 ≤ plainClass.radius ∧ plainClass.radius ≤ 9000 ∧ plainClass.radius ≤ plainClass.nominal
      ∧ faceLane.strips.length ≤ 28 ∧ lane0.strips.length ≤ 28
      ∧ (laneResult cfg0 plainClass faceLane).wear.isSome = true := by decide +kernel
/-- The measured face has its run from column -16 to +15, found at column 0. -/
theorem wit_face_run :
    8 ≤ faceLane.strips.length ∧ faceLane.crossing = false
      ∧ (∀ c, 16 ≤ c → c ≤ 47 → c < 64 ∧ isFace cfg0.tFace faceLane.strips c = true)
      ∧ ¬(15 < 64 ∧ isFace cfg0.tFace faceLane.strips 15 = true)
      ∧ ¬(48 < 64 ∧ isFace cfg0.tFace faceLane.strips 48 = true) :=
  have h := (faceRun_iff _ 16 47).mp test_face_run
  ⟨by decide, by decide, h.1, h.2.1.resolve_left (by decide), h.2.2.1⟩
/-- Rows without a bright cell have no face, and rows bright throughout reach the edges. -/
theorem wit_no_face_and_edge :
    let lane (x : Nat) : Lane := { lane0 with strips := List.replicate 8 (List.replicate 64 x) }
    (laneResult cfg0 plainClass (lane 0)).noFace = true ∧ (laneResult cfg0 plainClass (lane 1000)).windowEdge = true
      ∧ (lane 0).strips.length ≤ 28 := by decide +kernel
theorem wit_hit :
    hitCase.centre ≤ 32767 ∧ hitCase.centre = 16 * 1250 ∧ attitudeCase.sample = some ⟨12000, -15000⟩
      ∧ attitudeCase.state ≠ .lost ∧ StaggerUnit.reset.state = .lost := by decide

/-! #### Telegrams -/

theorem quiet_received (i : Byte) (b : List Byte) : Quiet cfg0 (received i b op) :=
  quiet_of rfl (by change nothingDue op = true; exact quiet_op.2)

theorem quiet_receivedWith (i : Byte) (b : List Byte) (e : Entry) (h : e.yieldAge = 0) :
    Quiet cfg0 (received i b (withEntries [e] op)) :=
  quiet_of rfl (by
    have := quiet_op.2
    simp only [nothingDue, Bool.and_eq_true] at this ⊢
    refine ⟨⟨⟨⟨⟨this.1.1.1.1.1, ?_⟩, this.1.1.1.2⟩, this.1.1.2⟩, this.1.2⟩, this.2⟩
    simp [received, withEntries, State.setLc, State.setTt, h])

theorem wit_headstate :
    Quiet cfg0 (received 0x54 (headstateBytes 1) op) ∧ (0x54 : Byte).toNat = 5 * 16 + (3 + 1)
      ∧ 3 + 1 ≠ (received 0x54 (headstateBytes 1) op).src.station ∧ (headstateBytes 1).length = 23
      ∧ (received 0x54 (headstateBytes 1) op).nl[3]? = some .reset :=
  ⟨quiet_received _ _, by decide, by decide, by decide, rfl⟩

/-- The entry at 13,000 µm is exactly 12,000 µm from the telegram's +1,000 µm. -/
theorem wit_adoption_in_place :
    let s := received 0x34 handoverBytes (withEntries [wire .tentative 7 13000] op)
    Quiet cfg0 s ∧ (0x34 : Byte).toNat = 3 * 16 + (3 + 1) ∧ 3 + 1 ≠ s.src.station ∧ handoverBytes.length = 11
      ∧ (handoverBytes.getD 0 0).toNat = s.src.station ∧ s.tt.entry 0 = some (wire .tentative 7 13000)
      ∧ ((wire .tentative 7 13000).x - intOf [0x00, 0x03, 0xE8]).natAbs ≤ 12000
      ∧ (∀ j d, s.tt.entry j = some d → j = 0 ∧ d = wire .tentative 7 13000) ∧ s.ss.openBlock = none :=
  ⟨quiet_receivedWith _ _ _ rfl, by decide, by decide, by decide, by decide, by decide +kernel, by decide,
    fun _ _ h => entry_one h, rfl⟩
/-- Each state of the entry, with a block open or not, its lane 0 with an origin or without. -/
theorem wit_adoption_states :
    (∀ e : Entry, e.yieldAge = 0 → Quiet cfg0 (received 0x34 handoverBytes (withEntries [e] op))
        ∧ (received 0x34 handoverBytes (withEntries [e] op)).tt.entry 0 = some e)
      ∧ (∀ st, (wire st 7 1000).yieldAge = 0 ∧ ((wire st 7 1000).x - 1000).natAbs ≤ 12000)
      ∧ (let s := received 0x34 handoverBytes (running (withEntries [{ wire .owned 7 1000 with lane := some 0 }] op))
         nothingDue s = true ∧ s.tt.entry 0 = some { wire .owned 7 1000 with lane := some 0 }
          ∧ s.ss.openBlock = some block0 ∧ lane0.slot = 0 ∧ lane0.origin = none) := by
  refine ⟨fun e h => ⟨quiet_receivedWith _ _ _ h, rfl⟩, fun st => ⟨rfl, by change ((1000 : Int) - 1000).natAbs ≤ _; decide⟩, by decide +kernel⟩
/-- A full table with a victim, and one of OWNED and YIELDED entries alone; and a tag that is not in use. -/
theorem wit_adoption_full :
    let es (st : EntryState) := [0, 1, 2, 3, 4, 5, 6, 7].map fun i => wire st (BitVec.ofNat 8 i) (20000 * i + 20000)
    (∀ st ∈ [EntryState.coasting, .owned, .yielded],
        (let s := received 0x34 handoverBytes (withEntries (es st) op)
         nothingDue s = true ∧ farFromAll s.tt 1000 = true ∧ (∀ j, j < 8 → s.tt.entry j ≠ none)
          ∧ s.tt.entries.length = 8))
      ∧ victim (withEntries (es .coasting) op).tt [] = some 0 ∧ ¬State.reset.UsesTag 0 := by
  refine ⟨by decide +kernel, by decide +kernel, ?_⟩
  rintro (⟨i, e, h, _⟩ | ⟨b, h, _⟩ | ⟨b, h, _⟩ | ⟨b, h, _⟩)
  · have : State.reset.tt.entry i = none := by
      simp only [TrackTable.entry, State.reset, TrackTable.reset, List.getD_eq_getElem?_getD, List.getElem?_replicate]
      split <;> rfl
    rw [this] at h; cases h
  · cases h
  · cases h
  · rcases h with h | h <;> simp [State.reset, StripStore.reset] at h
theorem wit_adoption_new :
    let s := received 0x34 handoverBytes (withEntries [wire .owned 7 13001] op)
    Quiet cfg0 s ∧ (∀ j d, s.tt.entry j = some d → 12000 < (d.x - intOf [0x00, 0x03, 0xE8]).natAbs)
      ∧ 1 < s.tt.entries.length ∧ s.tt.entry 1 = none ∧ (∀ j, j < 1 → s.tt.entry j ≠ none)
      ∧ s.ss.openBlock = none := by
  refine ⟨quiet_receivedWith _ _ _ rfl, fun j d h => ?_, by decide, by decide +kernel, ?_, rfl⟩
  · rw [(entry_one h).2]; decide
  · intro j hj; interval_cases j; decide +kernel

theorem wit_sighting_resolves :
    let e := { wire .yielded 7 0 with yieldTarget := some 4 }
    let body := sightingBytes 2 [3, 7]
    let s := received 0x44 body (withEntries [e] op)
    let other := received 0x44 body (withEntries [wire .owned 7 0] op)
    Quiet cfg0 s ∧ Quiet cfg0 other ∧ (0x44 : Byte).toNat = 4 * 16 + (3 + 1) ∧ 3 + 1 ≠ s.src.station
      ∧ lengthAccepted .sighting body = true ∧ sightingOriginOf body = some ⟨3, 7⟩ ∧ s.src.station = 3
      ∧ s.tt.entry 0 = some e ∧ e.yieldTarget = some (3 + 1)
      ∧ (∀ j d, s.tt.entry j = some d → d.tag = 7 → j = 0)
      ∧ ∀ i d, other.tt.entry i = some d → ¬(d.state = .yielded ∧ d.tag = 7 ∧ d.yieldTarget = some (3 + 1)) := by
  refine ⟨quiet_receivedWith _ _ _ rfl, quiet_receivedWith _ _ _ rfl, by decide, by decide, by decide +kernel,
    by decide +kernel, rfl, by decide +kernel, rfl, fun j d h _ => (entry_one h).1, fun i d h => ?_⟩
  rw [(entry_one h).2]; decide

/-- Stations 2 and 4 at +192,000 µm are as far as this head from a wire at 0 µm; station 2 at 192,001 µm is farther,
and station 4 at 191,999 µm nearer. -/
theorem wit_duplicate_owner :
    let s (k : Nat) (m : Int) := received (BitVec.ofNat 8 (65 + k)) (sightingBytes 0 [])
      ((withEntries [wire .coasting 7 6000] op).setNeighbour (k + 1) (present m 0))
    (∀ p ∈ [(1, (192000 : Int)), (3, 192000), (1, 192001), (3, 191999)],
        nothingDue (s p.1 p.2) = true ∧ ((s p.1 p.2).neighbour (p.1 + 1)).state = .present
          ∧ ((s p.1 p.2).neighbour (p.1 + 1)).mountOffset = some p.2
          ∧ (p.2 - cfg0.mountOffset).natAbs < 512000
          ∧ (s p.1 p.2).tt.entry 0 = some (wire .coasting 7 6000) ∧ p.1 + 1 ≠ (s p.1 p.2).src.station)
      ∧ (∀ k m, (s k m).src.part = .operating cfg0)
      ∧ lengthAccepted .sighting (sightingBytes 0 []) = true ∧ sightingOriginOf (sightingBytes 0 []) = none
      ∧ sightingLateralOf (sightingBytes 0 []) = 0 ∧ ((wire .coasting 7 6000).x - 0).natAbs ≤ 6000
      ∧ 1 + 1 < op.src.station ∧ op.src.station < 3 + 1 ∧ op.src.station = 3 := by
  refine ⟨by decide +kernel, fun _ _ => ?_, by decide +kernel, by decide +kernel, by decide +kernel, by decide,
    by decide, by decide, rfl⟩
  simp only [State.setNeighbour]; rfl
/-- Two OWNED entries equally near to a wire at 0 µm. -/
theorem wit_duplicate_equal :
    let s := withEntries [wire .owned 7 (-500), wire .owned 8 500] op
    ∀ j d, s.tt.entry j = some d → d.state = .owned ∨ d.state = .coasting →
      ((wire .owned 7 (-500)).x - 0).natAbs < (d.x - 0).natAbs
        ∨ ((wire .owned 7 (-500)).x - 0).natAbs = (d.x - 0).natAbs ∧ 0 ≤ j := by
  intro s j d h _
  refine .inr ⟨?_, Nat.zero_le j⟩
  match j, h with
  | 0, h => cases h; rfl
  | 1, h => cases h; rfl
  | 2, h | 3, h | 4, h | 5, h | 6, h | 7, h => cases h
  | j + 8, h => cases h

/-- A RUN body that repeats run 7, class 0; one of another class; and one out of range. -/
theorem wit_run_telegram :
    (∀ b, Quiet cfg0 (received 0x10 b (running op)))
      ∧ (∀ b ∈ [([0, 7, 1, 0] : List Byte), [0, 7, 1, 3], [0, 7, 3, 0], [0, 7, 2, 4]], b.length = 4)
      ∧ (running op).ss.openBlock = some block0 ∧ block0.run = 7 ∧ (running op).src.currentClass = 0
      ∧ (received 0x10 [0, 7, 1, 0] op).ss.openBlock = none
      ∧ (∀ b k q, Quiet cfg0 (received 0x10 [0, 7, 2, 0] (withBlocks b [] k q op))
          ∧ (received 0x10 [0, 7, 2, 0] (withBlocks b [] k q op)).ss.openBlock = b) := by
  refine ⟨fun b => quiet_of rfl (by change nothingDue op = true; exact quiet_op.2), by decide, rfl, rfl, rfl, rfl,
    fun b k q => ⟨quiet_of rfl (by change nothingDue op = true; exact quiet_op.2), rfl⟩⟩
theorem wit_attitude :
    Quiet cfg0 (received 0x20 (List.replicate 8 0x80) op) ∧ (List.replicate 8 (0x80 : Byte)).length = 8 :=
  ⟨quiet_received _ _, by decide⟩

theorem wit_discard :
    (∀ i b, catchUp (received i b op) = received i b op)
      ∧ ((0x60 : Byte).toNat / 16 = 6 ∧ (0x0F : Byte).toNat / 16 = 0)
      ∧ ((0x10 : Byte).toNat / 16 = 1 ∧ (0x44 : Byte).toNat / 16 = 4)
      ∧ lengthAccepted .sighting (List.replicate 40 0) = false
      ∧ ((0x33 : Byte).toNat / 16 = 3 ∧ (0x33 : Byte).toNat % 16 = op.src.station ∧ handoverBytes.length = 11)
      ∧ ((0x30 : Byte).toNat % 16 = 0 ∧ (0x39 : Byte).toNat % 16 = 9)
      ∧ (inPart (.loading .waiting)).src.part.isOperating = false
      ∧ (0x11 : Byte).toNat % 16 ≠ 0 := by
  refine ⟨fun i b => catchUp_of_quiet (quiet_received i b), by decide, by decide, by decide +kernel, by decide,
    by decide, rfl, by decide⟩

/-! #### The line -/

theorem catchUp_lc (l : LinkController) : catchUp (op.setLc l) = op.setLc l :=
  catchUp_of_quiet (quiet_of rfl (by change nothingDue op = true; exact quiet_op.2))

theorem wit_contention :
    (∀ d, catchUp (contending d) = contending d ∧ (contending d).src.part ≠ .held
        ∧ (contending d).lc.txQueue = [.handover handover0])
      ∧ (contending false).lc.tx = .contending false ∧ (contending false).lc.rx = .ready
      ∧ (contending true).lc.tx = .contending true :=
  ⟨fun _ => ⟨catchUp_lc _, by change op.src.part ≠ _; decide, rfl⟩, rfl, rfl, rfl⟩
theorem wit_transmission :
    (∀ t, catchUp (sending t) = sending t ∧ (sending t).lc.txQueue = t :: [] ∧ (sending t).lc.headstateDue = false
        ∧ (sending t).lc.tx = .sending)
      ∧ (contending true).lc.tx = .contending true ∧ (contending true).lc.headstateDue = false
      ∧ (Telegram.handover handover0).isHeadstate = false
      ∧ (sending (.headstate (headstateOf op))).lc.txQueue = [.headstate (headstateOf op)]
      ∧ (let s := op.setLc { op.lc with
           txQueue := .headstate (headstateOf op) :: [.handover handover0], tx := .sending, headstateDue := true }
         catchUp s = s ∧ s.lc.headstateDue = true ∧ s.lc.tx = .sending
          ∧ (∀ y ∈ [Telegram.handover handover0], y.isHeadstate = false) ∧ [Telegram.handover handover0].length < 12) :=
  ⟨fun _ => ⟨catchUp_lc _, rfl, rfl, rfl⟩, rfl, rfl, rfl, rfl, catchUp_lc _, rfl, rfl, by decide, by decide⟩
/-- A good telegram, with 1 and with 2 buffers occupied, and a bad one. -/
theorem wit_reception :
    (∀ r b, catchUp (op.setLc { op.lc with rx := r, rxBuffers := b }) = op.setLc { op.lc with rx := r, rxBuffers := b })
      ∧ op.src.part ≠ .held ∧ op.lc.tx ≠ .contending true ∧ op.lc.tx ≠ .sending
      ∧ receive (lineLevels 0x10 [0, 7, 1, 2]).tail = some ⟨0x10, [0, 7, 1, 2]⟩ ∧ receive [] = none :=
  ⟨fun _ _ => catchUp_lc _, by decide, by decide, by decide, by decide +kernel, by decide +kernel⟩
theorem wit_line_round_trip : (List.replicate 48 (0xFF : Byte)).length ≤ 48 := by decide
theorem wit_bodies :
    (handover0.target < 256 ∧ (-8388608 : Int) ≤ handover0.x ∧ handover0.x < 8388608 ∧ -32768 ≤ handover0.v
        ∧ handover0.v < 32768 ∧ handover0.height < 65536)
      ∧ ((-8388608 : Int) ≤ (headstateOf op).mountOffset ∧ (headstateOf op).mountOffset < 8388608
        ∧ (headstateOf op).slot ≤ 3)
      ∧ (let g := sightingOf cfg0 block0 (laneResult cfg0 plainClass faceLane) { faceLane with origin := some ⟨2, 9⟩ }
         SightFlag.wearPresent.isSetIn g.flags = g.wear.isSome ∧ SightFlag.originPresent.isSetIn g.flags = g.origin.isSome
          ∧ g.wear.isSome = true ∧ g.origin = some ⟨2, 9⟩ ∧ -8388608 ≤ g.lateralMean ∧ g.lateralMean < 8388608) := by
  decide +kernel

/-! #### Invariants: a state in the midst of a run meets each, and can step -/

/-- In RUN, exposing the lit frame 46, with a block open and another settling, two telegrams queued, one received. -/
def busy : State :=
  let s := withEntries [wire .owned 7 0] op
  ((((s.setSs { s.ss with
      openBlock := some { block0 with lanes := [faceLane] }
      settling := [{ block0 with seq := 0, bank := some 1, lanes := [lane0], closing := some ⟨31, 957⟩ }]
      banks := [.filling 1, .filling 0] }).setEc { s.ec with
      cycle := some { newCycle cfg0 46 1 with phase := .exposing }, expose := .high, laser := .high }).setLc { s.lc with
      txQueue := [.handover handover0, .headstate (headstateOf op)], tx := .contending false
      rxBuffers := [⟨0x10, [0, 7, 1, 2]⟩] }).setFe { s.fe with
      expected := [⟨45, .full⟩, ⟨46, .full⟩], queue := [⟨44, .full, []⟩] }).setPending [.lineIdle, .tick .low]

theorem wit_busy_steps : ∃ t, step busy = .next t := ⟨_, rfl⟩
theorem wit_capacities : busy.lc.Bounded ∧ busy.fe.Bounded ∧ busy.Sized :=
  ⟨⟨by decide, by decide, by decide, by decide⟩, ⟨by decide, by decide⟩,
    ⟨by decide, by decide, by decide, fun b h => by cases h; decide⟩⟩
theorem wit_keep_and_slot : busy.KeepInRange ∧ busy.SlotInRange :=
  ⟨⟨by decide, fun cfg h => by cases h; decide⟩,
    ⟨by decide, fun p h => (by cases h), by decide, by decide, fun cfg h => by cases h; decide⟩⟩
theorem wit_laser_safe : busy.LaserSafe ∧ busy.ec.laser = .high :=
  ⟨fun _ => ⟨rfl, rfl, _, rfl, rfl, by decide⟩, rfl⟩
theorem wit_strips_bounded : busy.StripsBounded :=
  ⟨fun b h => by cases h; intro l hl; simp at hl; subst hl; exact ⟨by decide, by decide, fun h => by cases h⟩,
    fun b h => by
      simp [busy, withEntries, State.setSs, State.setEc, State.setLc, State.setFe, State.setPending] at h
      subst h; intro l hl; simp at hl; subst hl; exact ⟨by decide, by decide, fun h => by cases h⟩,
    fun b h => by
      simp [busy, withEntries, State.setSs, State.setEc, State.setLc, State.setFe, State.setPending] at h⟩
/-- A state whose Wear Unit computes one bank while another waits. -/
theorem wit_strips_bounded_banks :
    let b := { block0 with lanes := [faceLane] }
    let s := op.setSs { op.ss with banks := [.waiting b, .computing b], computing := some 1 }
    s.StripsBounded ∧ .waiting b ∈ s.ss.banks := by
  refine ⟨⟨fun b h => by (cases h), fun b h => by (cases h), fun b h => ?_⟩, by decide +kernel⟩
  simp [State.setSs] at h
  subst h
  intro l hl; simp at hl; subst hl
  exact ⟨by decide, by decide, fun h => by cases h⟩
theorem wit_tags_owned : busy.TagsOwned where
  distinct := fun i j a b ha hb _ => by
    rw [(entry_one (s := op) (e := wire .owned 7 0) ha).1, (entry_one (s := op) (e := wire .owned 7 0) hb).1]
  entries := by decide +kernel
  openLanes := fun b h => by cases h; decide
  settlingLanes := fun b h => by
    simp [busy, withEntries, State.setSs, State.setEc, State.setLc, State.setFe, State.setPending] at h
    subst h; decide
  bankLanes := fun b h => by
    simp [busy, withEntries, State.setSs, State.setEc, State.setLc, State.setFe, State.setPending] at h
theorem wit_banks_owned : busy.BanksOwned where
  banks := rfl
  openBlock := fun b k h hk => by cases h; cases hk; rfl
  settling := fun b h => by
    simp [busy, withEntries, State.setSs, State.setEc, State.setLc, State.setFe, State.setPending] at h
    subst h; exact ⟨1, rfl, rfl⟩
  distinct := by decide
  computing := fun k => by
    constructor
    · rintro ⟨b, h⟩
      match k with
      | 0 => cases h
      | 1 => cases h
      | n + 2 => cases h
    · intro h; cases h
  atMostTwo := by decide

end Sys2Proof.Tests
end

section
/-! SUPPORT. LASER over the commands: which of them leave the exposure alone, and what the others do to it. -/

namespace Sys2Proof.Machine

/-! ### What leaves the exposure alone -/

/-- The part state, EXPOSE, LASER and a slot cycle in progress are as they were; a cycle may have begun. -/
structure ExposureKept (s t : State) : Prop where
  part : t.src.part = s.src.part
  expose : t.ec.expose = s.ec.expose
  laser : t.ec.laser = s.ec.laser
  cycle : ∀ c, s.ec.cycle = some c → t.ec.cycle = some c

theorem ExposureKept.refl (s : State) : ExposureKept s s := ⟨rfl, rfl, rfl, fun _ h => h⟩

theorem ExposureKept.trans {a b c : State} (h1 : ExposureKept a b) (h2 : ExposureKept b c) : ExposureKept a c :=
  ⟨h2.part.trans h1.part, h2.expose.trans h1.expose, h2.laser.trans h1.laser, fun x h => h2.cycle x (h1.cycle x h)⟩

theorem ExposureKept.of_ec {s t : State} (hec : t.ec = s.ec) (hpart : t.src.part = s.src.part) : ExposureKept s t :=
  ⟨hpart, by rw [hec], by rw [hec], fun _ h => by rw [hec, h]⟩

/-- LASER is high in the same states as before, so what held of it holds on. -/
theorem ExposureKept.laserSafe {s t : State} (h : ExposureKept s t) (hs : s.LaserSafe) : t.LaserSafe := by
  intro hl
  obtain ⟨hop, hex, c, hc, hph⟩ := hs (h.laser ▸ hl)
  exact ⟨h.part ▸ hop, h.expose.trans hex, c, h.cycle c hc, hph⟩

/-- With LASER low there is nothing to hold. -/
theorem laserSafe_of_low {t : State} (h : t.ec.laser = .low) : t.LaserSafe := fun hl => by rw [h] at hl; cases hl

/-- Outside OPERATING LASER is low, and so it is in whatever state has its level (R197). -/
theorem laserSafe_of_not_operating {s t : State} (hs : s.LaserSafe) (hp : s.src.part.isOperating = false)
    (hl : t.ec.laser = s.ec.laser) : t.LaserSafe := by
  intro h
  have hop := (hs (hl ▸ h)).1
  rw [hp] at hop
  cases hop

theorem foldl_exposureKept {β : Type} (f : State → β → State) (h : ∀ s b, ExposureKept s (f s b)) (l : List β)
    (s : State) : ExposureKept s (l.foldl f s) :=
  foldl_related ExposureKept .refl (fun _ _ _ => .trans) f h l s

/-! ### Due events -/

theorem triggerExposure_cycle (cfg : Startup) (s : State) :
    (triggerExposure cfg s).ec.cycle = some (s.ec.cycle.getD (newCycle cfg s.du.frameIndex s.ec.currentSlot)) := by
  unfold triggerExposure
  split
  · rename_i h; simp [h]
  · rename_i c h; simp [h]

/-- A frame trigger starts a slot cycle, in the slot just made current, when none is in progress (R8, R28). -/
theorem frameTrigger_cycle (cfg : Startup) (s : State) :
    (frameTrigger cfg s).ec.cycle =
      some (s.ec.cycle.getD (newCycle cfg (s.du.frameIndex + 1) (s.ec.pendingSlot.getD s.ec.currentSlot))) := by
  unfold frameTrigger
  rw [triggerHeadstate_ec, triggerExposure_cycle, triggerBlocks_ec, triggerBlocks_du]
  rfl

theorem frameTrigger_exposureKept (cfg : Startup) (s : State) : ExposureKept s (frameTrigger cfg s) := by
  have h := (frameTrigger_frame cfg s).1
  refine ⟨?_, ?_, ?_, fun c hc => ?_⟩
  · rw [h]; simp
  · rw [h]; rfl
  · rw [h]; rfl
  · rw [frameTrigger_cycle, hc]; rfl

theorem takeTrigger_exposureKept (cfg : Startup) (s : State) : ExposureKept s (takeTrigger cfg s) := by
  unfold takeTrigger
  split
  · exact frameTrigger_exposureKept cfg s
  · exact .refl s

theorem takeSettleEnd_exposureKept (s : State) : ExposureKept s (takeSettleEnd s) := by
  unfold takeSettleEnd
  split
  · exact ⟨rfl, rfl, rfl, fun _ h => h⟩
  · exact .refl s

theorem takeReclaim_exposureKept (cfg : Startup) (s : State) (i : Nat) : ExposureKept s (takeReclaim cfg s i) :=
  .of_ec (by simp) (by simp)

theorem takeAbsent_exposureKept (cfg : Startup) (s : State) (t : Nat) : ExposureKept s (takeAbsent cfg s t) :=
  .of_ec (by simp) (by simp)

theorem takeExpire_exposureKept (cfg : Startup) (s : State) (t : Nat) : ExposureKept s (takeExpire cfg s t) :=
  .of_ec (by simp) (by simp)

theorem takeHeld_exposureKept (s : State) : ExposureKept s (takeHeld s) := .of_ec (by simp) (by simp)

theorem takeLost_exposureKept (s : State) : ExposureKept s (takeLost s) := .of_ec (by simp) (by simp)

theorem takeAged_exposureKept (cfg : Startup) (s : State) : ExposureKept s (takeAged cfg s) :=
  (foldl_exposureKept _ (takeReclaim_exposureKept cfg) _ s).trans
    ((foldl_exposureKept _ (takeAbsent_exposureKept cfg) _ _).trans
      ((foldl_exposureKept _ (takeExpire_exposureKept cfg) _ _).trans
        ((takeSettleEnd_exposureKept _).trans ((takeHeld_exposureKept _).trans (takeLost_exposureKept _)))))

theorem catchUp_exposureKept (s : State) : ExposureKept s (catchUp s) := by
  unfold catchUp
  split
  · exact (takeTrigger_exposureKept _ s).trans (takeAged_exposureKept _ _)
  · exact .refl s

theorem catchTrigger_exposureKept (s : State) : ExposureKept s (catchTrigger s) := by
  unfold catchTrigger
  split
  · exact takeTrigger_exposureKept _ s
  · exact .refl s

/-! ### The frames of the actions -/

theorem inOperating_exposureKept {act : Startup → State → State} (h : ∀ cfg s, ExposureKept s (act cfg s)) (s : State) :
    ExposureKept s (inOperating act s) := by
  unfold inOperating
  split
  · exact h _ s
  · exact .refl s

theorem onLine_exposureKept (act : LinkController → LinkController) (s : State) : ExposureKept s (onLine act s) := by
  unfold onLine
  split
  · exact .refl s
  · exact .of_ec rfl rfl

theorem takeTelegram_exposureKept {k : Kind} {act : Startup → RxTelegram → State → State}
    (h : ∀ cfg t s, ExposureKept s (act cfg t s)) (s : State) : ExposureKept s (takeTelegram k act s) := by
  unfold takeTelegram
  split
  · split
    · exact .trans (b := freeBuffer s) (.of_ec rfl rfl) (h _ _ _)
    · exact .refl s
  · exact .refl s

theorem freeEntry_exposureKept (i : Nat) (s : State) : ExposureKept s (freeEntry i s) := .of_ec (by simp) (by simp)

theorem tickOperating_exposureKept (d : Direction) (cfg : Startup) (s : State) :
    ExposureKept s (tickOperating d cfg s) := by
  unfold tickOperating reversal
  dsimp only
  split <;> exact .of_ec (by simp) (by simp)

theorem interference_exposureKept (cfg : Startup) (s : State) : ExposureKept s (interference cfg s) := by
  unfold interference
  dsimp only
  split
  · exact ⟨rfl, rfl, rfl, fun _ h => h⟩
  · exact .of_ec rfl rfl

theorem takeStrayCount_exposureKept (cfg : Startup) (n : Nat) (s : State) :
    ExposureKept s (takeStrayCount cfg n s) := by
  have hset (k : Nat) : ExposureKept s (s.setEc { s.ec with strayStreak := k }) := ⟨rfl, rfl, rfl, fun _ h => h⟩
  unfold takeStrayCount
  split
  · exact hset 0
  · split
    · exact hset 1
    · exact (hset 0).trans (interference_exposureKept cfg _)

theorem finishDarkRow_exposureKept (cfg : Startup) (row : RowInProcess) (s : State) :
    ExposureKept s (finishDarkRow cfg row s) :=
  (takeStrayCount_exposureKept cfg (strayCount cfg row.cells) s).trans
    (.of_ec (by simp [finishDarkRow]) (by simp [finishDarkRow]))

theorem associateRow_exposureKept (cfg : Startup) (row : RowInProcess) (s : State) :
    ExposureKept s (associateRow cfg row s) :=
  .of_ec (by simp [associateRow]) (by simp [associateRow])

theorem takeRun_exposureKept (cfg : Startup) (run : Word16) (st : RunState) (cls : Nat) (s : State) :
    ExposureKept s (takeRun cfg run st cls s) := by
  unfold takeRun
  dsimp only
  split
  · split <;> exact .of_ec (by simp) (by simp)
  · exact .of_ec rfl rfl

theorem judgeRun_exposureKept (cfg : Startup) (t : RxTelegram) (s : State) : ExposureKept s (judgeRun cfg t s) := by
  unfold judgeRun
  dsimp only
  split
  · split
    · exact takeRun_exposureKept _ _ _ _ s
    · exact .refl s
  · exact .refl s

theorem adoptInPlace_exposureKept (i : Nat) (e : Entry) (o : Origin) (rate : Int) (s : State) :
    ExposureKept s (adoptInPlace i e o rate s) := by
  unfold adoptInPlace
  dsimp only
  split
  · split <;> exact .of_ec rfl rfl
  · split <;> exact .of_ec rfl rfl
  all_goals exact .of_ec (by simp) (by simp)

theorem adoptNew_exposureKept (h : Handover) (o : Origin) (s : State) : ExposureKept s (adoptNew h o s) := by
  unfold adoptNew
  split
  · rename_i i u hu
    exact .of_ec (by simp [makeRoom_ec _ _ _ _ hu]) (by simp [makeRoom_src _ _ _ _ hu])
  · exact .of_ec rfl rfl

theorem takeHandover_exposureKept (cfg : Startup) (t : RxTelegram) (s : State) :
    ExposureKept s (takeHandover cfg t s) := by
  unfold takeHandover
  dsimp only
  split
  · split
    · exact adoptInPlace_exposureKept _ _ _ _ s
    · exact adoptNew_exposureKept _ _ s
  · exact .refl s

theorem checkDuplicate_exposureKept (cfg : Startup) (t : RxTelegram) (s : State) :
    ExposureKept s (checkDuplicate cfg t s) := by
  unfold checkDuplicate
  dsimp only
  split
  · split
    · split
      · exact .of_ec (by simp [yieldDuplicate]) (by simp [yieldDuplicate])
      · exact .refl s
    · exact .refl s
  · exact .refl s

theorem takeSighting_exposureKept (cfg : Startup) (t : RxTelegram) (s : State) :
    ExposureKept s (takeSighting cfg t s) := by
  unfold takeSighting
  split
  · split
    · split
      · exact freeEntry_exposureKept _ s
      · exact .refl s
    · exact checkDuplicate_exposureKept _ _ s
  · exact checkDuplicate_exposureKept _ _ s

/-! ### The commands that leave the exposure alone -/

/-- What an action of an OPERATING part keeps, on what has been caught up. -/
theorem caughtUp_exposureKept {act : Startup → State → State} (h : ∀ cfg s, ExposureKept s (act cfg s)) (s : State) :
    ExposureKept s (inOperating act (catchUp s)) :=
  (catchUp_exposureKept s).trans (inOperating_exposureKept h _)

/-- What an action of a due event keeps, on the trigger that has been taken. -/
theorem triggered_exposureKept {act : Startup → State → State} (h : ∀ cfg s, ExposureKept s (act cfg s)) (s : State) :
    ExposureKept s (inOperating act (catchTrigger s)) :=
  (catchTrigger_exposureKept s).trans (inOperating_exposureKept h _)

theorem execTick_exposureKept {dir : Pin} {s t : State} (h : execTick dir s = .next t) : ExposureKept s t := by
  refine (catchUp_exposureKept s).trans ?_
  unfold execTick at h
  dsimp only at h
  split at h <;> cases h
  · exact .refl _
  · exact tickOperating_exposureKept _ _ _
  · exact .of_ec rfl rfl

theorem execRateWindowEnd_exposureKept {s t : State} (h : execRateWindowEnd s = .next t) : ExposureKept s t := by
  refine (catchUp_exposureKept s).trans ?_
  unfold execRateWindowEnd at h
  dsimp only at h
  split at h <;> cases h <;> exact .of_ec rfl rfl

theorem execPole_exposureKept {s t : State} (h : execPole s = .next t) : ExposureKept s t := by
  cases h
  refine caughtUp_exposureKept (fun cfg s => ?_) s
  dsimp only
  split <;> exact .of_ec (by simp) (by simp)

theorem execRowArrival_exposureKept {nibbles : List Nibble} {s t : State} (h : execRowArrival nibbles s = .next t) :
    ExposureKept s t := by
  refine (catchUp_exposureKept s).trans ?_
  unfold execRowArrival at h
  dsimp only at h
  split at h <;> cases h
  · refine .trans (b := (catchUp s).setFe { (catchUp s).fe with receiving := false }) (.of_ec rfl rfl)
      (inOperating_exposureKept (fun cfg s => ?_) _)
    split <;> exact .of_ec (by simp) (by simp)
  · exact .refl _

theorem execDarkRowDone_exposureKept {s t : State} (h : execDarkRowDone s = .next t) : ExposureKept s t := by
  cases h
  refine caughtUp_exposureKept (fun cfg s => ?_) s
  split
  · split
    · exact finishDarkRow_exposureKept cfg _ s
    · exact .refl s
  · exact .refl s

theorem execRowAssociation_exposureKept {s t : State} (h : execRowAssociation s = .next t) : ExposureKept s t := by
  cases h
  refine caughtUp_exposureKept (fun cfg s => ?_) s
  split
  · split
    · exact associateRow_exposureKept cfg _ s
    · exact .refl s
  · exact .refl s

theorem execLitRowEnd_exposureKept {s t : State} (h : execLitRowEnd s = .next t) : ExposureKept s t := by
  cases h
  refine caughtUp_exposureKept (fun cfg s => ?_) s
  split
  · split
    · exact .of_ec (by simp) (by simp)
    · exact .refl s
  · exact .refl s

theorem execWearComplete_exposureKept {s t : State} (h : execWearComplete s = .next t) : ExposureKept s t := by
  cases h
  refine caughtUp_exposureKept (fun cfg s => ?_) s
  split
  · exact .of_ec (by simp) (by simp)
  · exact .refl s

theorem execHeadstateTimer_exposureKept {s t : State} (h : execHeadstateTimer s = .next t) : ExposureKept s t := by
  refine (catchUp_exposureKept s).trans ?_
  unfold execHeadstateTimer at h
  dsimp only at h
  split at h <;> cases h <;> exact .of_ec (by simp) (by simp)

theorem execTelegramDiscard_exposureKept {s t : State} (h : execTelegramDiscard s = .next t) : ExposureKept s t := by
  refine (catchUp_exposureKept s).trans ?_
  unfold execTelegramDiscard at h
  dsimp only at h
  split at h <;> cases h <;> exact .of_ec rfl rfl

theorem execTransmitError_exposureKept {s t : State} (h : execTransmitError s = .next t) : ExposureKept s t := by
  cases h
  refine (catchUp_exposureKept s).trans ?_
  split
  · exact .of_ec (by simp [loseTransmission]) (by simp [loseTransmission])
  · exact .refl _

theorem execTransmitComplete_exposureKept {s t : State} (h : execTransmitComplete s = .next t) :
    ExposureKept s t := by
  cases h
  refine (catchUp_exposureKept s).trans ?_
  split
  · exact .of_ec (by simp [completeTransmission]) (by simp [completeTransmission])
  · exact .refl _

theorem execSrfRise_exposureKept {s t : State} (h : execSrfRise s = .next t) : ExposureKept s t := by
  refine (catchUp_exposureKept s).trans ?_
  unfold execSrfRise at h
  dsimp only at h
  split at h <;> cases h <;> exact .of_ec rfl rfl

theorem takeAttitude_exposureKept (cfg : Startup) (t : RxTelegram) (s : State) :
    ExposureKept s (takeAttitude cfg t s) := .of_ec rfl rfl

theorem writeNeighbour_exposureKept (cfg : Startup) (t : RxTelegram) (s : State) :
    ExposureKept s (writeNeighbour cfg t s) :=
  .of_ec (by simp [writeNeighbour]) (by simp [writeNeighbour])

/-- A telegram taken, on what has been caught up. -/
theorem caughtUp_takeTelegram_exposureKept {k : Kind} {act : Startup → RxTelegram → State → State}
    (h : ∀ cfg t s, ExposureKept s (act cfg t s)) (s : State) : ExposureKept s (takeTelegram k act (catchUp s)) :=
  (catchUp_exposureKept s).trans (takeTelegram_exposureKept h _)

theorem caughtUp_onLine_exposureKept (act : LinkController → LinkController) (s : State) :
    ExposureKept s (onLine act (catchUp s)) :=
  (catchUp_exposureKept s).trans (onLine_exposureKept act _)

/-! ### The commands that change the exposure -/

theorem inOperating_laserSafe {act : Startup → State → State} {s : State} (hs : s.LaserSafe)
    (h : ∀ cfg, s.src.part = .operating cfg → (act cfg s).LaserSafe) : (inOperating act s).LaserSafe := by
  unfold inOperating
  split
  · rename_i cfg hp
    exact h cfg hp
  · exact hs

/-- An exposure that begins raises LASER on a lit frame alone, and EXPOSE with it (R10). -/
theorem beginExposure_laserSafe {cfg : Startup} {s : State} (hp : s.src.part = .operating cfg) (c : SlotCycle) :
    (beginExposure cfg c s).LaserSafe := by
  intro hl
  have hec : (beginExposure cfg c s).ec = { s.ec with
      cycle := some { c with phase := .exposing }, expose := .high
      laser := if isDark c.frame then .low else .high } := by simp [beginExposure]
  rw [hec] at hl ⊢
  refine ⟨by simp [beginExposure, hp, PartState.isOperating], rfl, _, rfl, rfl, ?_⟩
  by_contra hd
  rw [if_pos (by simpa using hd)] at hl
  cases hl

theorem execExposeRise_laserSafe {s t : State} (hs : s.LaserSafe) (h : execExposeRise s = .next t) : t.LaserSafe := by
  have hu := (catchUp_exposureKept s).laserSafe hs
  cases h
  refine inOperating_laserSafe hu fun cfg hp => ?_
  split
  · split
    · exact beginExposure_laserSafe hp _
    · exact hu
  · exact hu

theorem execExposeFall_laserSafe {s t : State} (hs : s.LaserSafe) (h : execExposeFall s = .next t) : t.LaserSafe := by
  have hu := (catchUp_exposureKept s).laserSafe hs
  cases h
  refine inOperating_laserSafe hu fun cfg hp => ?_
  split
  · split
    · exact laserSafe_of_low rfl
    · exact hu
  · exact hu

/-- A cycle ends when its exposure is over, and LASER is low by then. -/
theorem execSlotCycleEnd_laserSafe {s t : State} (hs : s.LaserSafe) (h : execSlotCycleEnd s = .next t) :
    t.LaserSafe := by
  have hu := (catchUp_exposureKept s).laserSafe hs
  cases h
  refine inOperating_laserSafe hu fun cfg hp => ?_
  split
  · rename_i c hc
    split
    · rename_i hx
      intro hl
      obtain ⟨-, -, d, hd, hph, -⟩ := hu hl
      obtain rfl : c = d := by simpa [hc] using hd
      rw [hx] at hph
      cases hph
    · exact hu
  · exact hu

/-! ### The commands of reset and LOADING -/

theorem execResetEnd_laserSafe {straps : BitVec 3} {s t : State} (hs : s.LaserSafe)
    (h : execResetEnd straps s = .next t) : t.LaserSafe := by
  have hu := (catchUp_exposureKept s).laserSafe hs
  unfold execResetEnd at h
  dsimp only at h
  split at h <;> cases h
  · rename_i hp
    exact laserSafe_of_not_operating hu (by rw [hp]; rfl) rfl
  · exact hu

theorem execConfigReadStart_laserSafe {s t : State} (hs : s.LaserSafe) (h : execConfigReadStart s = .next t) :
    t.LaserSafe := by
  have hu := (catchUp_exposureKept s).laserSafe hs
  unfold execConfigReadStart at h
  dsimp only at h
  split at h <;> cases h
  · rename_i hp
    exact laserSafe_of_not_operating hu (by rw [hp]; rfl) rfl
  · exact hu

theorem execConfigReadDone_laserSafe {levels : List Pin} {s t : State} (hs : s.LaserSafe)
    (h : execConfigReadDone levels s = .next t) : t.LaserSafe := by
  have hu := (catchUp_exposureKept s).laserSafe hs
  unfold execConfigReadDone at h
  dsimp only at h
  split at h <;> cases h
  · rename_i hp
    exact laserSafe_of_not_operating hu (by rw [hp]; rfl) rfl
  · exact hu

theorem endLoading_laser (block : List Byte) (s : State) : (endLoading block s).ec.laser = s.ec.laser := by
  unfold endLoading
  split <;> simp [acceptBlock]

theorem execLoadingEnd_laserSafe {s t : State} (hs : s.LaserSafe) (h : execLoadingEnd s = .next t) :
    t.LaserSafe := by
  have hu := (catchUp_exposureKept s).laserSafe hs
  unfold execLoadingEnd at h
  dsimp only at h
  split at h <;> cases h
  · rename_i hp
    exact laserSafe_of_not_operating hu (by rw [hp]; rfl) (endLoading_laser _ _)
  · exact hu

/-! ### Every command -/

theorem exec_keepsLaserSafe (c : Instr) {s t : State} (hs : s.LaserSafe) (h : exec c s = .next t) : t.LaserSafe := by
  cases c with
  | reset => cases h; exact laserSafe_of_low rfl
  | resetEnd straps => exact execResetEnd_laserSafe hs h
  | configReadStart => exact execConfigReadStart_laserSafe hs h
  | configReadDone levels => exact execConfigReadDone_laserSafe hs h
  | loadingEnd => exact execLoadingEnd_laserSafe hs h
  | slotCycleEnd => exact execSlotCycleEnd_laserSafe hs h
  | exposeRise => exact execExposeRise_laserSafe hs h
  | exposeFall => exact execExposeFall_laserSafe hs h
  | tick dir => exact (execTick_exposureKept h).laserSafe hs
  | rateWindowEnd => exact (execRateWindowEnd_exposureKept h).laserSafe hs
  | pole => exact (execPole_exposureKept h).laserSafe hs
  | rowArrival nibbles => exact (execRowArrival_exposureKept h).laserSafe hs
  | darkRowDone => exact (execDarkRowDone_exposureKept h).laserSafe hs
  | rowAssociation => exact (execRowAssociation_exposureKept h).laserSafe hs
  | litRowEnd => exact (execLitRowEnd_exposureKept h).laserSafe hs
  | wearComplete => exact (execWearComplete_exposureKept h).laserSafe hs
  | headstateTimer => exact (execHeadstateTimer_exposureKept h).laserSafe hs
  | telegramDiscard => exact (execTelegramDiscard_exposureKept h).laserSafe hs
  | transmitError => exact (execTransmitError_exposureKept h).laserSafe hs
  | transmitComplete => exact (execTransmitComplete_exposureKept h).laserSafe hs
  | srfRise => exact (execSrfRise_exposureKept h).laserSafe hs
  | frameTrigger => cases h; exact (catchTrigger_exposureKept s).laserSafe hs
  | yieldReclaim i => cases h; exact (triggered_exposureKept (takeReclaim_exposureKept · · i) s).laserSafe hs
  | neighbourAbsent n => cases h; exact (triggered_exposureKept (takeAbsent_exposureKept · · n) s).laserSafe hs
  | notTakingExpire n => cases h; exact (triggered_exposureKept (takeExpire_exposureKept · · n) s).laserSafe hs
  | settleEnd => cases h; exact (triggered_exposureKept (fun _ => takeSettleEnd_exposureKept) s).laserSafe hs
  | attitudeHeld => cases h; exact (triggered_exposureKept (fun _ => takeHeld_exposureKept) s).laserSafe hs
  | attitudeLost => cases h; exact (triggered_exposureKept (fun _ => takeLost_exposureKept) s).laserSafe hs
  | runTelegram => cases h; exact (caughtUp_takeTelegram_exposureKept judgeRun_exposureKept s).laserSafe hs
  | attitudeTelegram => cases h; exact (caughtUp_takeTelegram_exposureKept takeAttitude_exposureKept s).laserSafe hs
  | headstateTelegram =>
    cases h; exact (caughtUp_takeTelegram_exposureKept writeNeighbour_exposureKept s).laserSafe hs
  | adoption => cases h; exact (caughtUp_takeTelegram_exposureKept takeHandover_exposureKept s).laserSafe hs
  | sightingTelegram => cases h; exact (caughtUp_takeTelegram_exposureKept takeSighting_exposureKept s).laserSafe hs
  | telegramReceived _ | transmitStart | arbitrationLost | arbitrationWon | lineIdle | startBit =>
    cases h; exact (caughtUp_onLine_exposureKept _ s).laserSafe hs

/-- Settles O57: a step runs the front command, and every command keeps LASER safe. -/
theorem stepKeepsLaserSafe : Obligations.StepKeepsLaserSafe := by
  intro s t hs h
  unfold step at h
  split at h
  · cases h; exact hs
  · rename_i c rest _
    exact exec_keepsLaserSafe c (s := s.setPending rest) hs h

end Sys2Proof.Machine
end

section
/-! SUPPORT. Ticks, reversals, the rate window, pole marks and the exposure of a slot cycle. -/

namespace Sys2Proof.Machine

/-! ### Actions of an OPERATING part -/

theorem inOperating_operating {act : Startup → State → State} {cfg : Startup} {s : State}
    (hp : s.src.part = .operating cfg) : inOperating act s = act cfg s := by
  unfold inOperating
  rw [hp]

/-- In a Quiet part an action finds the state as it stands. -/
theorem inOperating_quiet {act : Startup → State → State} {cfg : Startup} {s : State} (hq : Quiet cfg s) :
    inOperating act (catchUp s) = act cfg s := by
  rw [catchUp_of_quiet hq, inOperating_operating hq.1]

/-! ### Ticks -/

theorem directionOf_eq (dir : Pin) : directionOf dir = if dir = .high then .forward else .reverse := by
  cases dir <;> rfl

theorem countTick_eq (dir : Pin) (d : DistanceUnit) :
    countTick (directionOf dir) d = { d with
      distance := if dir = .high then d.distance + 1 else d.distance - 1
      direction := if dir = .high then .forward else .reverse } := by
  cases dir <;> rfl

theorem execTick_quiet {cfg : Startup} {s : State} (hq : Quiet cfg s) (dir : Pin) :
    execTick dir s = .next (tickOperating (directionOf dir) cfg s) := by
  unfold execTick
  simp only [catchUp_of_quiet hq, hq.1]

theorem tickOperating_held (cfg : Startup) {d : Direction} {s : State} (h : d = s.du.direction) :
    tickOperating d cfg s =
      s.setDu { countTick d s.du with downCounter := s.du.downCounter - 1 } := by
  simp only [tickOperating, if_pos h]
  rfl

theorem tickOperating_reversed (cfg : Startup) {d : Direction} {s : State} (h : d ≠ s.du.direction) :
    tickOperating d cfg s =
      (reversal cfg (s.setDu (countTick d s.du))).setDu
        { countTick d s.du with downCounter := s.du.downCounter - 1 } := by
  simp only [tickOperating, if_neg h]
  simp [reversal, countTick]

/-- Settles O9: the tick of each part state, in OPERATING one in the held direction. -/
theorem tickCountsDistance : Obligations.TickCountsDistance := by
  intro dir s distance' direction'
  refine ⟨fun cfg hq hd => ?_, fun hp => ?_, fun hp => ?_⟩
  · show execTick dir s = _
    rw [execTick_quiet hq, tickOperating_held cfg (by rw [directionOf_eq, hd]), countTick_eq]
    show Host.Outcome.next { s with du := { s.du with
      distance := distance', direction := direction', downCounter := s.du.downCounter - 1 } } = _
    rw [← hd]
  · have hu : catchUp s = s := catchUp_of_not_operating (by rcases hp with ⟨p, h⟩ | ⟨b, h⟩ <;> rw [h] <;> rfl)
    show execTick dir s = _
    unfold execTick
    rcases hp with ⟨p, h⟩ | ⟨b, h⟩ <;> simp only [hu, h, countTick_eq] <;> rfl
  · show execTick dir s = _
    unfold execTick
    rw [catchUp_of_not_operating (by rw [hp]; rfl)]
    simp only [hp]

/-! ### Reversals and pole marks -/

/-- What a close at the latest frame leaves alone, and which block it closes (R130). -/
theorem closeNow_frame (cfg : Startup) (s : State) :
    closeNow cfg s = { s with
      tt := { s.tt with entries := (closeNow cfg s).tt.entries }
      ss := { s.ss with
        openBlock := none, settling := (closeNow cfg s).ss.settling, banks := (closeNow cfg s).ss.banks
        computing := (closeNow cfg s).ss.computing }
      lc := (closeNow cfg s).lc } :=
  (closeBlock_frame cfg s.du.frameIndex s).1

theorem closeNow_closesTo (cfg : Startup) {s : State} {b : Block} (hb : s.ss.openBlock = some b) :
    ClosesTo cfg s.du.frameIndex s.du.distance b s (closeNow cfg s) :=
  closeBlock_closesTo cfg s.du.frameIndex hb

/-- Settles O10: a reversal is a close at the latest frame of the state with the tick counted and the rates negated. -/
theorem reversalNegatesRatesAndCloses : Obligations.ReversalNegatesRatesAndCloses := by
  intro cfg dir s hq hd distance' reversed
  have hd' : directionOf dir ≠ s.du.direction := by rw [directionOf_eq]; exact Ne.symm hd
  let du' : DistanceUnit := { s.du with
    distance := distance', direction := if dir = .high then .forward else .reverse }
  let u : State := (s.setDu du').mapEntries Entry.reversed
  have he : exec (.tick dir) s =
      .next ((closeNow cfg u).setDu { du' with downCounter := s.du.downCounter - 1 }) := by
    show execTick dir s = _
    rw [execTick_quiet hq, tickOperating_reversed cfg hd', countTick_eq]
    rfl
  refine ⟨_, he, ?_, fun hb => ?_, fun b hb => ?_⟩
  · conv_lhs => rw [closeNow_frame cfg u]
    rfl
  · have hn : closeNow cfg u = u := closeBlock_of_none cfg _ u hb
    show (closeNow cfg u).tt = _ ∧ (closeNow cfg u).ss = _ ∧ (closeNow cfg u).lc = _
    rw [hn]
    exact ⟨rfl, rfl, rfl⟩
  · exact closesTo_congr (s' := u) rfl rfl rfl rfl (closeNow_closesTo cfg (s := u) hb)

/-- Settles O22: a pole mark is captured, and in RUN the block closes at the latest frame. -/
theorem poleMarksAndCloses : Obligations.PoleMarksAndCloses := by
  intro cfg s hq du'
  have he : exec .pole s = .next (if s.src.runState = .run then closeNow cfg (s.setDu du') else s.setDu du') :=
    congrArg _ (inOperating_quiet hq)
  refine ⟨fun hr => ?_, fun hr => ?_⟩
  · rw [he, if_neg hr]
    rfl
  · rw [he, if_pos hr]
    refine ⟨_, rfl, closeNow_frame cfg (s.setDu du'), fun hb => closeBlock_of_none cfg _ _ hb, fun b hb => ?_⟩
    exact closesTo_congr (s' := s.setDu du') rfl rfl rfl rfl (closeNow_closesTo cfg (s := s.setDu du') hb)

/-! ### The rate window -/

/-- Settles O21: nothing is owed in any of the three part states, so the window is completed at once. -/
theorem rateWindowCompletes : Obligations.RateWindowCompletes := by
  intro s h
  have hu : catchUp s = s := by
    rcases h with ⟨cfg, hq⟩ | ⟨p, h⟩ | ⟨b, h⟩
    · exact catchUp_of_quiet hq
    · exact catchUp_of_not_operating (by rw [h]; rfl)
    · exact catchUp_of_not_operating (by rw [h]; rfl)
  show execRateWindowEnd s = _
  unfold execRateWindowEnd
  rw [hu]
  rcases h with ⟨cfg, h, -⟩ | ⟨p, h⟩ | ⟨b, h⟩ <;> simp only [h] <;> rfl

/-! ### The exposure of a slot cycle -/

theorem isDark_iff (f : Word32) : isDark f = true ↔ f.toNat % 8 = 7 := by simp [isDark]

theorem frameClass_eq (f : Word32) (k : Nat) :
    frameClass f k = if f.toNat % 8 = 7 then .dark else if f.toNat % 8 * k % 8 < k then .full else .gateOnly := by
  simp [frameClass, isDark_iff, isKept]

/-- An exposure that finds room in the expected-row list (R36). -/
theorem beginExposure_of_room (cfg : Startup) (c : SlotCycle) {s : State} (h : s.fe.expected.length < 2) :
    beginExposure cfg c s = { s with
      ec := { s.ec with
        cycle := some { c with phase := .exposing }, expose := .high
        laser := if c.frame.toNat % 8 = 7 then .low else .high }
      fe := { s.fe with expected := s.fe.expected ++ [⟨c.frame, frameClass c.frame s.keep⟩] } } := by
  simp only [← isDark_iff]
  exact if_pos h

/-- Settles O19: each event of the slot cycle, in the phase that makes it due. -/
theorem slotCycleExposes : Obligations.SlotCycleExposes := by
  intro cfg c s hq hc
  refine ⟨fun hph hroom => ?_, fun hph => ?_, fun hph => ?_⟩
  · refine (congrArg Host.Outcome.next (inOperating_quiet hq)).trans ?_
    simp only [hc, if_pos hph]
    rw [beginExposure_of_room cfg c hroom, frameClass_eq]
  · refine (congrArg Host.Outcome.next (inOperating_quiet hq)).trans ?_
    simp only [hc, if_pos hph]
    rfl
  · refine (congrArg Host.Outcome.next (inOperating_quiet hq)).trans ?_
    simp only [hc, if_pos hph]
    rfl

end Sys2Proof.Machine
end

section
/-! SUPPORT. What a frame trigger ages, when the governor evaluates at it, and how it starts or skips a frame. -/

namespace Sys2Proof.Machine

/-! ### Ageing -/

theorem clampPosition_eq (x : Int) : clampPosition x = max (-8000000) (min 8000000 x) := by
  unfold clampPosition clampInt
  split <;> [skip; split] <;> omega

theorem atTrigger_eq (e : Entry) : e.atTrigger = { e with
    x := max (-8000000) (min 8000000 (e.x + e.v))
    yieldAge := if e.state = .yielded then min (e.yieldAge + 1) 80 else e.yieldAge } := by
  simp only [Entry.atTrigger, Entry.advance, clampPosition_eq]

/-- What ageing does, whole (R4 to R6, R28, R29, R71, R101, R114, R159). -/
theorem triggerAgeing_eq (cfg : Startup) (s : State) :
    triggerAgeing cfg s = { s with
      du := triggerDu cfg s.du
      ec := triggerSlot s.ec
      tt := { s.tt with
        entries := s.tt.entries.map fun p => p.map Entry.atTrigger
        zone := ownZone (s.nl.map Neighbour.aged) cfg.mountOffset }
      nl := s.nl.map Neighbour.aged
      su := s.su.aged } := rfl

/-- The entries as a frame trigger leaves them: each aged, and at most its origin, lane and reclaim mark changed
besides. -/
theorem frameTrigger_entries (cfg : Startup) (s : State) :
    Entrywise (fun e e' => SameWire e.atTrigger e') s.tt.entries (frameTrigger cfg s).tt.entries := by
  refine Entrywise.trans (R := fun e e' => e' = e.atTrigger) (S := SameWire) (fun a b c h h' => h ▸ h') ?_
    (frameTrigger_frame cfg s).2
  exact Entrywise.map (R := fun e e' => e' = e.atTrigger) Entry.atTrigger (fun _ => rfl) s.tt.entries

/-! ### The governor -/

theorem closeBlock_openBlock (cfg : Startup) (f : Word32) (s : State) : (closeBlock cfg f s).ss.openBlock = none := by
  rw [(closeBlock_frame cfg f s).1]

/-- The Strip Store's part of a trigger, once the natural end at a group's start has been taken. -/
def afterGroupEnd (cfg : Startup) (s : State) : State :=
  if s.du.frameIndex.toNat % 32 = 0 then closeBlock cfg (s.du.frameIndex - 1) s else s

theorem triggerBlocks_eq (cfg : Startup) (s : State) :
    triggerBlocks cfg s =
      let u := afterGroupEnd cfg s
      if u.src.runState = .run then if u.ss.openBlock = none then openBlock cfg u else u
      else if s.du.frameIndex.toNat % 32 = 0 then governorEvaluate cfg u else u := rfl

theorem afterGroupEnd_keeps (cfg : Startup) (s : State) :
    (afterGroupEnd cfg s).src = s.src ∧ (afterGroupEnd cfg s).keep = s.keep ∧ (afterGroupEnd cfg s).fe = s.fe
      ∧ (afterGroupEnd cfg s).du = s.du := by
  unfold afterGroupEnd
  split <;> simp

theorem afterGroupEnd_openBlock (cfg : Startup) (s : State) :
    (afterGroupEnd cfg s).ss.openBlock = none ↔ s.ss.openBlock = none ∨ s.du.frameIndex.toNat % 32 = 0 := by
  unfold afterGroupEnd
  split
  · rename_i h
    simp [closeBlock_openBlock, h]
  · rename_i h
    simp [h]

/-- When the governor evaluates at a trigger: as a block opens, and outside RUN at a group's start (R63, R64). -/
theorem triggerBlocks_keep (cfg : Startup) (s : State) :
    (triggerBlocks cfg s).keep =
      if s.src.runState = .run ∧ s.ss.openBlock = none ∨ s.du.frameIndex.toNat % 32 = 0
      then keepFactor cfg.rules s.fe.queue.length s.du.rateLast else s.keep := by
  obtain ⟨hsrc, hkeep, hfe, hdu⟩ := afterGroupEnd_keeps cfg s
  have hopen := afterGroupEnd_openBlock cfg s
  rw [triggerBlocks_eq]
  dsimp only
  rw [hsrc]
  split
  · rename_i hr
    split
    · rename_i hn
      rw [(openBlock_opens cfg _).2.1, hfe, hdu, if_pos ((hopen.mp hn).imp_left fun h => ⟨hr, h⟩)]
    · rename_i hn
      rw [hkeep, if_neg fun h => hn (hopen.mpr (h.imp_left And.right))]
  · rename_i hr
    split
    · rename_i h0
      rw [if_pos (.inr h0)]
      simp [governorEvaluate, hfe, hdu]
    · rename_i h0
      rw [hkeep, if_neg fun h => h.elim (fun h => hr h.1) h0]

theorem frameTrigger_keep (cfg : Startup) (s : State) :
    (frameTrigger cfg s).keep =
      if s.src.runState = .run ∧ s.ss.openBlock = none ∨ (s.du.frameIndex + 1).toNat % 32 = 0
      then keepFactor cfg.rules s.fe.queue.length s.du.rateLast else s.keep := by
  unfold frameTrigger
  rw [triggerHeadstate_keep, triggerExposure_keep, triggerBlocks_keep]
  rfl

theorem exec_frameTrigger_due {cfg : Startup} {s : State} (hp : s.src.part = .operating cfg)
    (h0 : s.du.downCounter = 0) : exec .frameTrigger s = .next (frameTrigger cfg s) :=
  congrArg _ (catchTrigger_of_due hp h0)

/-- Settles O11: the ageing, within what the rest of the trigger can change. -/
theorem frameTriggerAges : Obligations.FrameTriggerAges := by
  intro cfg s hp h0
  have hf := (frameTrigger_frame cfg s).1
  have hnl : (frameTrigger cfg s).nl = s.nl.map Neighbour.aged := by rw [hf]; rfl
  refine ⟨_, exec_frameTrigger_due hp h0, ?_, fun i => ?_⟩
  · rw [← frameTrigger_keep cfg s, hnl]
    conv_lhs => rw [hf, triggerAgeing_eq]
    rfl
  · obtain ⟨hnone, hsome⟩ := (frameTrigger_entries cfg s).entry i
    refine ⟨hnone, fun e he => ?_⟩
    obtain ⟨e', he', hw⟩ := hsome e he
    exact ⟨e', he', by rw [SameWire, atTrigger_eq] at hw; exact hw⟩

/-! ### Skipped frames -/

/-- A lane that counts a skipped frame (R135). -/
def Lane.skipOne (f : Word32) (l : Lane) : Lane :=
  if l.status = .taking ∧ f.toNat % 8 ≠ 7 then { l with skipped := l.skipped + 1 } else l

/-- A frame skipped while a block is open, that does not end it (R12, R135). -/
theorem frameSkipped_counts (cfg : Startup) {f : Word32} {s : State} {b : Block} (hb : s.ss.openBlock = some b)
    (h31 : f.toNat % 32 ≠ 31) :
    frameSkipped cfg f s =
      { s with ss := { s.ss with openBlock := some { b with lanes := b.lanes.map (Lane.skipOne f) } } } := by
  unfold frameSkipped
  dsimp only
  rw [naturalEnd_other cfg (.inl h31)]
  by_cases hd : f.toNat % 8 = 7
  · have hl : b.lanes.map (Lane.skipOne f) = b.lanes := by
      conv_rhs => rw [← List.map_id b.lanes]
      exact List.map_congr_left fun l _ => if_neg fun h => h.2 hd
    rw [if_pos (by simpa [isDark] using hd), hl, ← hb]
  · have hl : b.mapLanes (fun l => if l.isTaking then { l with skipped := l.skipped + 1 } else l) =
        { b with lanes := b.lanes.map (Lane.skipOne f) } := by
      simp [Block.mapLanes, Lane.skipOne, Lane.isTaking, hd]
    rw [if_neg (by simpa [isDark] using hd), hb, Option.map_some, skipInLanes, hl]
    rfl

/-- The skip of the open block's frame whose index mod 32 is 31 closes it (R131). -/
theorem frameSkipped_ends (cfg : Startup) {s : State} {b : Block} (hb : s.ss.openBlock = some b)
    (hc : b.closing = none) (h31 : s.du.frameIndex.toNat % 32 = 31) :
    frameSkipped cfg s.du.frameIndex s = closeBlock cfg s.du.frameIndex s := by
  unfold frameSkipped
  dsimp only
  rw [if_pos (by simp only [isDark, beq_iff_eq]; omega)]
  exact naturalEnd_ends cfg hb hc h31 le_rfl

theorem triggerExposure_skips (cfg : Startup) {s : State} {c : SlotCycle} (hc : s.ec.cycle = some c) :
    triggerExposure cfg s = (frameSkipped cfg s.du.frameIndex s).raise .frameSkipped := by
  unfold triggerExposure
  rw [hc]

/-- The Strip Store after a trigger that skips its frame. -/
theorem frameTrigger_ss (cfg : Startup) {s : State} {c : SlotCycle} (hc : s.ec.cycle = some c) :
    (frameTrigger cfg s).ss =
      (frameSkipped cfg (s.du.frameIndex + 1) (triggerBlocks cfg (triggerAgeing cfg s))).ss := by
  unfold frameTrigger
  rw [triggerHeadstate_ss, triggerExposure_skips cfg (c := c) (by rw [triggerBlocks_ec]; exact hc), triggerBlocks_du]
  rfl

/-- The entries after a trigger that skips its frame. -/
theorem frameTrigger_tt (cfg : Startup) {s : State} {c : SlotCycle} (hc : s.ec.cycle = some c) :
    (frameTrigger cfg s).tt =
      (frameSkipped cfg (s.du.frameIndex + 1) (triggerBlocks cfg (triggerAgeing cfg s))).tt := by
  unfold frameTrigger
  rw [triggerHeadstate_tt, triggerExposure_skips cfg (c := c) (by rw [triggerBlocks_ec]; exact hc), triggerBlocks_du]
  rfl

/-- Within a group the Strip Store's part leaves an open block as it is. -/
theorem triggerBlocks_within (cfg : Startup) {s : State} {b : Block} (hb : s.ss.openBlock = some b)
    (h0 : s.du.frameIndex.toNat % 32 ≠ 0) : triggerBlocks cfg s = s := by
  have hu : afterGroupEnd cfg s = s := if_neg h0
  rw [triggerBlocks_eq]
  simp [hu, hb, h0]

/-- In RUN a trigger that finds no block open, or starts a group, opens one at its frame, each lane of which is fresh
and TAKING (R127, R128). -/
theorem triggerBlocks_opens (cfg : Startup) {s : State} (hr : s.src.runState = .run)
    (h : s.ss.openBlock = none ∨ s.du.frameIndex.toNat % 32 = 0) :
    ∃ b, (triggerBlocks cfg s).ss.openBlock = some b ∧ b.openFrame = s.du.frameIndex
      ∧ ∀ l ∈ b.lanes, l.status = .taking ∧ l.skipped = 0 := by
  obtain ⟨hsrc, -, -, hdu⟩ := afterGroupEnd_keeps cfg s
  have he : triggerBlocks cfg s = openBlock cfg (afterGroupEnd cfg s) := by
    rw [triggerBlocks_eq]
    simp [hsrc, hr, (afterGroupEnd_openBlock cfg s).mpr h]
  rw [he, (openBlock_opens cfg _).1]
  refine ⟨_, rfl, by rw [← hdu]; rfl, fun l hl => ?_⟩
  simp only [openedBlock, lanesFor, List.mem_map] at hl
  obtain ⟨p, -, rfl⟩ := hl
  exact ⟨rfl, rfl⟩

/-- A skipped frame raises FRAME_SKIPPED, and only the HEADSTATE of a frame of index 31 takes it away (R12, R183). -/
theorem frameTrigger_flag (cfg : Startup) {s : State} {c : SlotCycle} (hc : s.ec.cycle = some c)
    (h31 : (s.du.frameIndex + 1).toNat % 32 ≠ 31) :
    StickyFlag.frameSkipped.isSetIn (frameTrigger cfg s).lc.sticky = true := by
  unfold frameTrigger
  rw [triggerExposure_skips cfg (c := c) (by rw [triggerBlocks_ec]; exact hc)]
  unfold triggerHeadstate
  rw [if_neg (by rw [raise_du, frameSkipped_du, triggerBlocks_du]; exact h31)]
  exact raise_sets _ _

/-- A close in the state that a trigger has aged is one in the state before, for the Strip Store. -/
theorem bankClosesTo_aged {cfg : Startup} {last d : Word32} {b : Block} {k : Nat} {s : State} {v : StripStore}
    (h : BankClosesTo last d b k (triggerAgeing cfg s) v) : BankClosesTo last d b k s v := h

/-- The skip of the open block's frame whose index mod 32 is 31 closes the block there (R131), in a trigger too. -/
theorem frameTrigger_ends (cfg : Startup) {s : State} {c : SlotCycle} {b : Block} (hc : s.ec.cycle = some c)
    (hb : s.ss.openBlock = some b) (hcl : b.closing = none) (h31 : (s.du.frameIndex + 1).toNat % 32 = 31) :
    let v := closeBlock cfg (s.du.frameIndex + 1) (triggerAgeing cfg s)
    (frameTrigger cfg s).ss = v.ss ∧ (frameTrigger cfg s).tt = v.tt := by
  have hw : triggerBlocks cfg (triggerAgeing cfg s) = triggerAgeing cfg s :=
    triggerBlocks_within cfg (b := b) hb (by show ¬(s.du.frameIndex + 1).toNat % 32 = 0; omega)
  have he := frameSkipped_ends cfg (s := triggerAgeing cfg s) hb hcl h31
  intro v
  rw [frameTrigger_ss cfg hc, frameTrigger_tt cfg hc, hw]
  exact ⟨congrArg State.ss he, congrArg State.tt he⟩

/-- After the close of an open block no entry has a lane (R132). -/
theorem closeBlock_lane_none (cfg : Startup) (f : Word32) {s : State} (ho : s.ss.openBlock ≠ none) {i : Nat} {e : Entry}
    (he : (closeBlock cfg f s).tt.entry i = some e) : e.lane = none := by
  obtain ⟨hnone, hsome⟩ := (closeBlock_frame cfg f s).2.entry i
  cases hi : s.tt.entry i with
  | none => rw [hnone hi] at he; cases he
  | some d =>
    obtain ⟨e', he', -, hlane, -⟩ := hsome d hi
    obtain rfl : e' = e := Option.some.inj (he'.symm.trans he)
    exact hlane ho

/-- Settles O12: the cycle and the flag, then a skip within a group, at its end, and at an opening. -/
theorem frameTriggerStartsOrSkips : Obligations.FrameTriggerStartsOrSkips := by
  intro cfg s hp h0
  refine ⟨_, exec_frameTrigger_due hp h0, fun hc => ?_, fun c hc => ⟨?_, ?_, fun b hb hs h31 => ?_,
    fun b hb hcl h31 => ?_, fun hr ho hl => ?_⟩⟩
  · rw [frameTrigger_cycle, hc]
    rfl
  · rw [frameTrigger_cycle, hc]
    rfl
  · exact frameTrigger_flag cfg hc
  · rw [frameTrigger_ss cfg hc, triggerBlocks_within cfg (s := triggerAgeing cfg s) hb hs,
      frameSkipped_counts cfg (s := triggerAgeing cfg s) hb h31]
    rfl
  · obtain ⟨hss, htt⟩ := frameTrigger_ends cfg hc hb hcl h31
    obtain ⟨hbank, hstarved⟩ := closeBlock_closesTo cfg (s.du.frameIndex + 1) (s := triggerAgeing cfg s) hb
    refine ⟨fun k hk => ?_, fun hk => ?_, fun i e he => ?_⟩
    · rw [hss]
      exact bankClosesTo_aged (hbank k hk).2.2
    · rw [hss]
      exact (hstarved hk).2.2
    · rw [htt] at he
      exact closeBlock_lane_none cfg _ (by rw [triggerAgeing_ss, hb]; simp) he
  · obtain ⟨b, hb, hf, hlanes⟩ := triggerBlocks_opens cfg (s := triggerAgeing cfg s) hr ho
    rw [frameTrigger_ss cfg hc, frameSkipped_counts cfg hb (by omega)]
    refine ⟨_, rfl, hf, fun l hm => ?_⟩
    obtain ⟨l', hm', rfl⟩ := List.mem_map.mp hm
    obtain ⟨ht, hz⟩ := hlanes l' hm'
    rw [Lane.skipOne, if_pos ⟨ht, hl⟩]
    exact congrArg (· + 1) hz

end Sys2Proof.Machine
end

section
/-! SUPPORT. What is owed to a part is taken once, by the seven due events one after the other, and leaves it Quiet. -/

namespace Sys2Proof.Machine

/-! ### Records of the Neighbour List -/

theorem neighbour_setNeighbour_ne {s : State} {t u : Nat} (r : Neighbour) (h : u ≠ t) :
    (s.setNeighbour t r).neighbour u = s.neighbour u := by
  match t, u with
  | 0, _ => rfl
  | _ + 1, 0 => rfl
  | k + 1, j + 1 =>
    show (s.nl.set k r).getD j .reset = s.nl.getD j .reset
    rw [List.getD_eq_getElem?_getD, List.getD_eq_getElem?_getD, List.getElem?_set_ne (by omega)]

/-- The record written is read back, of a station that has one; of any other the reset record is. -/
theorem neighbour_setNeighbour_self (s : State) (t : Nat) (r : Neighbour) :
    (s.setNeighbour t r).neighbour t = r ∨ (s.setNeighbour t r).neighbour t = .reset := by
  match t with
  | 0 => exact .inr rfl
  | k + 1 =>
    show (s.nl.set k r).getD k .reset = r ∨ (s.nl.set k r).getD k .reset = .reset
    rw [List.getD_eq_getElem?_getD]
    by_cases hk : k < s.nl.length
    · exact .inl (by rw [List.getElem?_set_self hk]; rfl)
    · exact .inr (by rw [List.getElem?_eq_none (by simpa using hk)]; rfl)

@[simp] theorem setNeighbour_records (s : State) (t : Nat) (r : Neighbour) :
    (s.setNeighbour t r).nl.length = s.nl.length := by
  cases t with
  | zero => rfl
  | succ k => exact List.length_set

/-- A record of the list is that of one of the eight stations. -/
theorem exists_station {s : State} (hn : s.nl.length = 8) {r : Neighbour} (hr : r ∈ s.nl) :
    ∃ t ∈ stations, s.neighbour t = r := by
  obtain ⟨k, hk, rfl⟩ := List.mem_iff_getElem.mp hr
  refine ⟨k + 1, ?_, ?_⟩
  · simp only [stations, List.mem_cons, List.not_mem_nil, or_false]
    omega
  · show s.nl.getD k .reset = _
    rw [List.getD_eq_getElem _ _ hk]

/-- An entry of the table stands at one of its positions. -/
theorem exists_position {t : TrackTable} (hl : t.entries.length = 8) {e : Entry} (he : some e ∈ t.entries) :
    ∃ i ∈ List.range Config.entries, t.entry i = some e := by
  obtain ⟨i, hi, h⟩ := List.mem_iff_getElem.mp he
  refine ⟨i, by simpa [hl] using hi, ?_⟩
  rw [TrackTable.entry, List.getD_eq_getElem _ _ hi, h]

/-! ### Each due event is taken once -/

/-- A fold of steps that make nothing due makes nothing due. -/
theorem foldl_keeps_not {α : Type} {f : State → α → State} {due : State → α → Prop}
    (hother : ∀ s a b, ¬due s b → ¬due (f s a) b) (l : List α) (s : State) (b : α) (h : ¬due s b) :
    ¬due (l.foldl f s) b := by
  induction l generalizing s with
  | nil => exact h
  | cons a l ih => exact ih _ (hother s a b h)

/-- A fold of steps, each of which clears what is due at its own place and makes nothing due at another. -/
theorem foldl_clears {α : Type} {f : State → α → State} {due : State → α → Prop} (hself : ∀ s a, ¬due (f s a) a)
    (hother : ∀ s a b, ¬due s b → ¬due (f s a) b) (l : List α) (s : State) : ∀ b ∈ l, ¬due (l.foldl f s) b := by
  induction l generalizing s with
  | nil => simp
  | cons a l ih =>
    rintro b (_ | ⟨_, hb⟩)
    · exact foldl_keeps_not hother l _ a (hself s a)
    · exact ih _ b hb

/-- The reclaim of the entry at an index is due (R116). -/
def ReclaimDue (s : State) (i : Nat) : Prop := ∃ e, s.tt.entry i = some e ∧ e.state = .yielded ∧ 80 ≤ e.yieldAge

/-- The absence of a station is due (R101). -/
def AbsenceDue (s : State) (t : Nat) : Prop := (s.neighbour t).state = .present ∧ 128 ≤ (s.neighbour t).age

/-- The end of a station's not-taking count is due (R117). -/
def ExpiryDue (s : State) (t : Nat) : Prop := (s.neighbour t).heldBack = true ∧ (s.neighbour t).notTaking = 0

/-- A reclaimed entry, before it is offered a lane (R116). -/
def Entry.reclaimed (e : Entry) : Entry :=
  { e with state := .owned, yieldAge := 0, yieldTarget := none, reclaimMark := true }

/-- The entries after a reclaim: the reclaimed one OWNED, and lanes and reclaim marks by the offer. -/
theorem reclaim_entries (cfg : Startup) (i : Nat) (e : Entry) (s : State) :
    Entrywise SameWire (s.setEntry i (some e.reclaimed)).tt.entries (reclaim cfg i e s).tt.entries := by
  obtain ⟨u, htt, he⟩ : ∃ u : State, u.tt = (s.setEntry i (some e.reclaimed)).tt
      ∧ (reclaim cfg i e s).tt.entries = (offerLane i u.du.frameIndex u).tt.entries := by
    unfold reclaim skipNewLanes
    dsimp only
    cases e.yieldTarget with
    | none => exact ⟨s.setEntry i (some e.reclaimed), rfl, by split <;> rfl⟩
    | some t => exact ⟨(s.setEntry i (some e.reclaimed)).setNeighbour t _, setNeighbour_tt _ _ _, by split <;> rfl⟩
  rw [he, ← htt]
  exact (offerLane_frame i _ u).2.2

theorem takeReclaim_length (cfg : Startup) (s : State) (i : Nat) :
    (takeReclaim cfg s i).tt.entries.length = s.tt.entries.length := by
  unfold takeReclaim
  split
  · split
    · exact (reclaim_entries cfg i _ s).length_eq.trans List.length_set
    · rfl
  · rfl

theorem takeReclaim_records (cfg : Startup) (s : State) (i : Nat) :
    (takeReclaim cfg s i).nl.length = s.nl.length := by
  unfold takeReclaim
  split
  · split
    · unfold reclaim skipNewLanes
      dsimp only
      split <;> split <;> simp
    · rfl
  · rfl

theorem takeReclaim_clears (cfg : Startup) (s : State) (i : Nat) : ¬ReclaimDue (takeReclaim cfg s i) i := by
  rintro ⟨d, hd, hy, ha⟩
  unfold takeReclaim at hd
  split at hd
  · rename_i e he
    split at hd
    · obtain ⟨d', hd', hw⟩ := (reclaim_entries cfg i e s).entry i |>.2 _ (entry_setEntry_self (entry_lt he))
      obtain rfl : d' = d := Option.some.inj (hd'.symm.trans hd)
      rw [hw] at hy
      cases hy
    · rename_i hn
      obtain rfl : e = d := Option.some.inj (he.symm.trans hd)
      exact hn ⟨hy, ha⟩
  · rename_i hn
    rw [hn] at hd
    cases hd

theorem takeReclaim_other (cfg : Startup) (s : State) (i j : Nat) (h : ¬ReclaimDue s j) :
    ¬ReclaimDue (takeReclaim cfg s i) j := by
  by_cases hij : j = i
  · exact hij ▸ takeReclaim_clears cfg s i
  rintro ⟨d, hd, hy, ha⟩
  unfold takeReclaim at hd
  split at hd
  · rename_i e he
    split at hd
    · have hw := (reclaim_entries cfg i e s).entry j
      rw [entry_setEntry_ne hij] at hw
      cases hj : s.tt.entry j with
      | none => rw [hw.1 hj] at hd; cases hd
      | some e' =>
        obtain ⟨d', hd', hsw⟩ := hw.2 e' hj
        obtain rfl : d' = d := Option.some.inj (hd'.symm.trans hd)
        rw [hsw] at hy ha
        exact h ⟨e', hj, hy, ha⟩
    · exact h ⟨d, hd, hy, ha⟩
  · exact h ⟨d, hd, hy, ha⟩

@[simp] theorem latchZone_entries (cfg : Startup) (s : State) : (latchZone cfg s).tt.entries = s.tt.entries := rfl

theorem takeAbsent_records (cfg : Startup) (s : State) (t : Nat) : (takeAbsent cfg s t).nl.length = s.nl.length := by
  unfold takeAbsent
  dsimp only
  split <;> simp

theorem takeAbsent_entries (cfg : Startup) (s : State) (t : Nat) : (takeAbsent cfg s t).tt.entries = s.tt.entries := by
  unfold takeAbsent
  dsimp only
  split <;> simp

theorem takeExpire_records (cfg : Startup) (s : State) (t : Nat) : (takeExpire cfg s t).nl.length = s.nl.length := by
  unfold takeExpire
  dsimp only
  split <;> simp

theorem takeExpire_entries (cfg : Startup) (s : State) (t : Nat) : (takeExpire cfg s t).tt.entries = s.tt.entries := by
  unfold takeExpire
  dsimp only
  split <;> simp

/-- The records after an absence: that of the station ABSENT when due, every other as it was. -/
theorem takeAbsent_neighbour (cfg : Startup) (s : State) (t u : Nat) :
    (takeAbsent cfg s t).neighbour u = s.neighbour u ∧ ¬(u = t ∧ AbsenceDue s t)
      ∨ (takeAbsent cfg s t).neighbour u = { s.neighbour u with state := .absent }
      ∨ (takeAbsent cfg s t).neighbour u = .reset := by
  by_cases hd : AbsenceDue s t
  · have he : takeAbsent cfg s t = latchZone cfg (s.setNeighbour t { s.neighbour t with state := .absent }) := if_pos hd
    rw [he]
    by_cases hu : u = t
    · subst hu
      exact .inr (neighbour_setNeighbour_self s u _)
    · exact .inl ⟨neighbour_setNeighbour_ne _ hu, fun h => hu h.1⟩
  · have he : takeAbsent cfg s t = s := if_neg hd
    rw [he]
    exact .inl ⟨rfl, fun h => hd h.2⟩

/-- The records after the end of a not-taking count: that of the station no longer held back when due, every other as it
was. -/
theorem takeExpire_neighbour (cfg : Startup) (s : State) (t u : Nat) :
    (takeExpire cfg s t).neighbour u = s.neighbour u ∧ ¬(u = t ∧ ExpiryDue s t)
      ∨ (takeExpire cfg s t).neighbour u = { s.neighbour u with heldBack := false }
      ∨ (takeExpire cfg s t).neighbour u = .reset := by
  by_cases hd : ExpiryDue s t
  · have he : takeExpire cfg s t = latchZone cfg (s.setNeighbour t { s.neighbour t with heldBack := false }) :=
      if_pos hd
    rw [he]
    by_cases hu : u = t
    · subst hu
      exact .inr (neighbour_setNeighbour_self s u _)
    · exact .inl ⟨neighbour_setNeighbour_ne _ hu, fun h => hu h.1⟩
  · have he : takeExpire cfg s t = s := if_neg hd
    rw [he]
    exact .inl ⟨rfl, fun h => hd h.2⟩

theorem not_absenceDue_of_reset {s : State} {t : Nat} (h : s.neighbour t = .reset) : ¬AbsenceDue s t := by
  rw [AbsenceDue, h]
  simp [Neighbour.reset]

theorem not_expiryDue_of_reset {s : State} {t : Nat} (h : s.neighbour t = .reset) : ¬ExpiryDue s t := by
  rw [ExpiryDue, h]
  simp [Neighbour.reset]

theorem takeAbsent_clears (cfg : Startup) (s : State) (t : Nat) : ¬AbsenceDue (takeAbsent cfg s t) t := by
  rcases takeAbsent_neighbour cfg s t t with ⟨he, hn⟩ | he | he
  · rw [AbsenceDue, he]
    exact fun h => hn ⟨rfl, h⟩
  · rw [AbsenceDue, he]
    simp
  · exact not_absenceDue_of_reset he

theorem takeAbsent_other (cfg : Startup) (s : State) (t u : Nat) (h : ¬AbsenceDue s u) :
    ¬AbsenceDue (takeAbsent cfg s t) u := by
  rcases takeAbsent_neighbour cfg s t u with ⟨he, -⟩ | he | he
  · rw [AbsenceDue, he]
    exact h
  · rw [AbsenceDue, he]
    simp
  · exact not_absenceDue_of_reset he

theorem takeExpire_clears (cfg : Startup) (s : State) (t : Nat) : ¬ExpiryDue (takeExpire cfg s t) t := by
  rcases takeExpire_neighbour cfg s t t with ⟨he, hn⟩ | he | he
  · rw [ExpiryDue, he]
    exact fun h => hn ⟨rfl, h⟩
  · rw [ExpiryDue, he]
    simp
  · exact not_expiryDue_of_reset he

theorem takeExpire_other (cfg : Startup) (s : State) (t u : Nat) (h : ¬ExpiryDue s u) :
    ¬ExpiryDue (takeExpire cfg s t) u := by
  rcases takeExpire_neighbour cfg s t u with ⟨he, -⟩ | he | he
  · rw [ExpiryDue, he]
    exact h
  · rw [ExpiryDue, he]
    simp
  · exact not_expiryDue_of_reset he

/-- The end of a not-taking count makes no absence due. -/
theorem takeExpire_absence (cfg : Startup) (s : State) (t u : Nat) (h : ¬AbsenceDue s u) :
    ¬AbsenceDue (takeExpire cfg s t) u := by
  rcases takeExpire_neighbour cfg s t u with ⟨he, -⟩ | he | he
  · rw [AbsenceDue, he]
    exact h
  · rw [AbsenceDue, he]
    exact h
  · exact not_absenceDue_of_reset he

theorem takeSettleEnd_clears (s : State) :
    ¬((takeSettleEnd s).ec.state = .settling ∧ (takeSettleEnd s).ec.settleCount = 0) := by
  unfold takeSettleEnd
  split
  · simp
  · assumption

/-- HELD and then LOST leave neither due (R159). -/
theorem takeLost_takeHeld_clears (s : State) :
    ¬((takeLost (takeHeld s)).su.state = .fresh ∧ 65 ≤ (takeLost (takeHeld s)).su.age)
      ∧ ¬((takeLost (takeHeld s)).su.state ≠ .lost ∧ 1024 ≤ (takeLost (takeHeld s)).su.age) := by
  have hheld : ¬((takeHeld s).su.state = .fresh ∧ 65 ≤ (takeHeld s).su.age) := by
    unfold takeHeld
    split
    · simp
    · assumption
  generalize takeHeld s = u at hheld
  unfold takeLost
  split
  · simp
  · exact ⟨hheld, by assumption⟩

/-! ### All that is owed -/

/-- Once all that the ageing has left due has been taken, nothing is, where no trigger is. -/
theorem takeAged_nothingDue (cfg : Startup) {s : State} (hd : s.du.downCounter ≠ 0)
    (he : s.tt.entries.length = 8) (hn : s.nl.length = 8) : nothingDue (takeAged cfg s) = true := by
  let r := (List.range Config.entries).foldl (takeReclaim cfg) s
  let a := stations.foldl (takeAbsent cfg) r
  let x := stations.foldl (takeExpire cfg) a
  have hq : takeAged cfg s = takeLost (takeHeld (takeSettleEnd x)) := rfl
  have hxe : x.tt.entries = r.tt.entries :=
    (foldl_keeps (·.tt.entries) _ (takeExpire_entries cfg) _ a).trans
      (foldl_keeps (·.tt.entries) _ (takeAbsent_entries cfg) _ r)
  have hre : r.tt.entries.length = 8 :=
    (foldl_keeps (·.tt.entries.length) _ (takeReclaim_length cfg) _ s).trans he
  have hxn : x.nl.length = 8 :=
    (foldl_keeps (·.nl.length) _ (takeExpire_records cfg) _ a).trans
      ((foldl_keeps (·.nl.length) _ (takeAbsent_records cfg) _ r).trans
        ((foldl_keeps (·.nl.length) _ (takeReclaim_records cfg) _ s).trans hn))
  have hreclaim : ∀ i ∈ List.range Config.entries, ¬ReclaimDue r i :=
    foldl_clears (takeReclaim_clears cfg) (takeReclaim_other cfg) _ s
  have habsence : ∀ t ∈ stations, ¬AbsenceDue x t := fun t ht =>
    foldl_keeps_not (takeExpire_absence cfg) _ a t
      (foldl_clears (takeAbsent_clears cfg) (takeAbsent_other cfg) _ r t ht)
  have hexpiry : ∀ t ∈ stations, ¬ExpiryDue x t :=
    foldl_clears (takeExpire_clears cfg) (takeExpire_other cfg) _ a
  rw [nothingDue_iff]
  refine ⟨by rw [takeAged_du]; exact hd, fun e hm hdue => ?_, fun p hm => ?_, ?_, ?_⟩
  · rw [hq, takeLost_tt, takeHeld_tt, takeSettleEnd_tt, hxe] at hm
    obtain ⟨i, hi, hie⟩ := exists_position hre hm
    exact hreclaim i hi ⟨e, hie, hdue⟩
  · rw [hq, takeLost_nl, takeHeld_nl, takeSettleEnd_nl] at hm
    obtain ⟨t, ht, rfl⟩ := exists_station hxn hm
    exact ⟨habsence t ht, hexpiry t ht⟩
  · rw [hq, takeLost_ec, takeHeld_ec]
    exact takeSettleEnd_clears x
  · rw [hq]
    exact takeLost_takeHeld_clears _

/-- The part is OPERATING and no frame trigger is due. -/
structure Triggered (cfg : Startup) (s : State) : Prop where
  part : s.src.part = .operating cfg
  counter : s.du.downCounter ≠ 0

theorem Triggered.of_eq {cfg : Startup} {s t : State} (h : Triggered cfg s) (hsrc : t.src = s.src) (hdu : t.du = s.du) :
    Triggered cfg t := ⟨hsrc ▸ h.part, hdu ▸ h.counter⟩

/-- With a frame pitch of 1 or more no trigger is due right after one (R4). -/
theorem takeTrigger_triggered {cfg : Startup} {s : State} (hp : s.src.part = .operating cfg) (hpitch : 1 ≤ cfg.pitch) :
    Triggered cfg (takeTrigger cfg s) := by
  refine ⟨(takeTrigger_exposureKept cfg s).part.trans hp, ?_⟩
  unfold takeTrigger
  split
  · rw [(frameTrigger_frame cfg s).1]
    show cfg.pitch ≠ 0
    omega
  · rename_i h
    simpa [triggerIsDue] using h

theorem takeTrigger_sizes (cfg : Startup) (s : State) :
    (takeTrigger cfg s).tt.entries.length = s.tt.entries.length ∧ (takeTrigger cfg s).nl.length = s.nl.length := by
  unfold takeTrigger
  split
  · refine ⟨(frameTrigger_entries cfg s).length_eq, ?_⟩
    rw [(frameTrigger_frame cfg s).1]
    exact List.length_map _
  · exact ⟨rfl, rfl⟩

theorem catchUp_operating {cfg : Startup} {s : State} (hp : s.src.part = .operating cfg) :
    catchUp s = takeAged cfg (takeTrigger cfg s) := by
  unfold catchUp
  rw [hp]

/-- A part that has caught up is Quiet. -/
theorem catchUp_quiet {cfg : Startup} {s : State} (hp : s.src.part = .operating cfg) (hpitch : 1 ≤ cfg.pitch)
    (hs : s.Sized) : Quiet cfg (catchUp s) := by
  have ht := takeTrigger_triggered hp hpitch
  obtain ⟨he, hn⟩ := takeTrigger_sizes cfg s
  rw [catchUp_operating hp]
  exact ⟨by rw [takeAged_src]; exact ht.part,
    takeAged_nothingDue cfg ht.counter (he.trans hs.entries) (hn.trans hs.records)⟩

/-! ### The due events as commands -/

/-- The command of a due event that a trigger has left. -/
theorem inOperating_triggered {act : Startup → State → State} {cfg : Startup} {s : State} (h : Triggered cfg s) :
    inOperating act (catchTrigger s) = act cfg s := by
  rw [catchTrigger_of_not_due h.counter, inOperating_operating h.part]

theorem exec_yieldReclaim {cfg : Startup} {s : State} (i : Nat) (h : Triggered cfg s) :
    exec (.yieldReclaim i) s = .next (takeReclaim cfg s i) := congrArg _ (inOperating_triggered h)

theorem exec_neighbourAbsent {cfg : Startup} {s : State} (t : Nat) (h : Triggered cfg s) :
    exec (.neighbourAbsent t) s = .next (takeAbsent cfg s t) := congrArg _ (inOperating_triggered h)

theorem exec_notTakingExpire {cfg : Startup} {s : State} (t : Nat) (h : Triggered cfg s) :
    exec (.notTakingExpire t) s = .next (takeExpire cfg s t) := congrArg _ (inOperating_triggered h)

theorem exec_settleEnd {cfg : Startup} {s : State} (h : Triggered cfg s) :
    exec .settleEnd s = .next (takeSettleEnd s) := congrArg _ (inOperating_triggered h)

theorem exec_attitudeHeld {cfg : Startup} {s : State} (h : Triggered cfg s) :
    exec .attitudeHeld s = .next (takeHeld s) := congrArg _ (inOperating_triggered h)

theorem exec_attitudeLost {cfg : Startup} {s : State} (h : Triggered cfg s) :
    exec .attitudeLost s = .next (takeLost s) := congrArg _ (inOperating_triggered h)

theorem runAll_cons {c : Instr} {cs : List Instr} {s u : State} (h : exec c s = .next u) :
    runAll (c :: cs) s = runAll cs u := by
  conv_lhs => unfold runAll
  rw [h]

theorem runAll_append {l m : List Instr} {s t : State} (h : runAll l s = .next t) :
    runAll (l ++ m) s = runAll m t := by
  induction l generalizing s with
  | nil => cases h; rfl
  | cons c l ih =>
    cases hc : exec c s with
    | next u =>
      rw [List.cons_append, runAll_cons hc]
      exact ih ((runAll_cons hc).symm.trans h)
    | fault r => cases r
    | refused r => simp [runAll, hc] at h

/-- Due events of one sort, run as commands, are taken one after the other. -/
theorem runAll_due {α : Type} {cfg : Startup} {cmd : α → Instr} {f : State → α → State}
    (hcmd : ∀ s a, Triggered cfg s → exec (cmd a) s = .next (f s a)) (hsrc : ∀ s a, (f s a).src = s.src)
    (hdu : ∀ s a, (f s a).du = s.du) (l : List α) {s : State} (h : Triggered cfg s) :
    runAll (l.map cmd) s = .next (l.foldl f s) ∧ Triggered cfg (l.foldl f s) := by
  induction l generalizing s with
  | nil => exact ⟨rfl, h⟩
  | cons a l ih =>
    rw [List.map_cons, runAll_cons (hcmd s a h)]
    exact ih (h.of_eq (hsrc s a) (hdu s a))

/-- The seven due events, run one after the other, take all that is owed. -/
theorem runAll_dueEvents {cfg : Startup} {s : State} (hp : s.src.part = .operating cfg) (hpitch : 1 ≤ cfg.pitch) :
    runAll
      ([Instr.frameTrigger] ++ (List.range 8).map Instr.yieldReclaim ++ stations.map Instr.neighbourAbsent
        ++ stations.map Instr.notTakingExpire ++ [Instr.settleEnd, Instr.attitudeHeld, Instr.attitudeLost]) s =
      .next (catchUp s) := by
  have ht := takeTrigger_triggered hp hpitch
  have h0 : runAll [.frameTrigger] s = .next (takeTrigger cfg s) := by
    show Host.Outcome.next (catchTrigger s) = _
    unfold catchTrigger
    rw [hp]
  obtain ⟨hr, htr⟩ := runAll_due (fun _ => exec_yieldReclaim (cfg := cfg)) (takeReclaim_src · cfg)
    (takeReclaim_du · cfg) (List.range 8) ht
  obtain ⟨ha, hta⟩ := runAll_due (fun _ => exec_neighbourAbsent (cfg := cfg)) (takeAbsent_src · cfg)
    (takeAbsent_du · cfg) stations htr
  obtain ⟨hx, htx⟩ := runAll_due (fun _ => exec_notTakingExpire (cfg := cfg)) (takeExpire_src · cfg)
    (takeExpire_du · cfg) stations hta
  have h3 := (runAll_append ((runAll_append ((runAll_append h0).trans hr)).trans ha)).trans hx
  have hte := htx.of_eq (takeSettleEnd_src _) (takeSettleEnd_du _)
  have hth := hte.of_eq (takeHeld_src _) (takeHeld_du _)
  rw [runAll_append h3, runAll_cons (exec_settleEnd htx), runAll_cons (exec_attitudeHeld hte),
    runAll_cons (exec_attitudeLost hth), catchUp_operating hp]
  rfl

/-- A command that is neither RESET nor that of a due event runs on what has been caught up (log 3). -/
theorem exec_catchUp {s : State} (hi : catchUp (catchUp s) = catchUp s) (c : Instr) (hreset : c ≠ .reset)
    (htrigger : c ≠ .frameTrigger) (hreclaim : ∀ i, c ≠ .yieldReclaim i) (habsent : ∀ n, c ≠ .neighbourAbsent n)
    (hexpire : ∀ n, c ≠ .notTakingExpire n) (hsettle : c ≠ .settleEnd) (hheld : c ≠ .attitudeHeld)
    (hlost : c ≠ .attitudeLost) : exec c s = exec c (catchUp s) := by
  cases c with
  | reset => exact absurd rfl hreset
  | frameTrigger => exact absurd rfl htrigger
  | yieldReclaim i => exact absurd rfl (hreclaim i)
  | neighbourAbsent n => exact absurd rfl (habsent n)
  | notTakingExpire n => exact absurd rfl (hexpire n)
  | settleEnd => exact absurd rfl hsettle
  | attitudeHeld => exact absurd rfl hheld
  | attitudeLost => exact absurd rfl hlost
  | resetEnd _ | configReadStart | configReadDone _ | loadingEnd | headstateTimer =>
    simp only [exec, execResetEnd, execConfigReadStart, execConfigReadDone, execLoadingEnd, execHeadstateTimer, hi]
  | tick _ | slotCycleEnd | exposeRise | exposeFall | rateWindowEnd | pole =>
    simp only [exec, execTick, execSlotCycleEnd, execExposeRise, execExposeFall, execRateWindowEnd, execPole, hi]
  | rowArrival _ | darkRowDone | rowAssociation | litRowEnd | wearComplete | srfRise =>
    simp only [exec, execRowArrival, execDarkRowDone, execRowAssociation, execLitRowEnd, execWearComplete,
      execSrfRise, hi]
  | telegramReceived _ | telegramDiscard | runTelegram | attitudeTelegram | headstateTelegram | adoption
  | sightingTelegram =>
    simp only [exec, execTelegramReceived, execTelegramDiscard, execRunTelegram, execAttitudeTelegram,
      execHeadstateTelegram, execAdoption, execSightingTelegram, hi]
  | transmitStart | arbitrationLost | arbitrationWon | transmitError | transmitComplete | lineIdle | startBit =>
    simp only [exec, execTransmitStart, execArbitrationLost, execArbitrationWon, execTransmitError,
      execTransmitComplete, execLineIdle, execStartBit, hi]

/-- Settles O16: in a Quiet part, in an OPERATING part to which something is owed, and elsewhere. -/
theorem eventsNotDueChangeNothing : Obligations.EventsNotDueChangeNothing := by
  refine ⟨fun cfg s hq => ?_, fun cfg s hp hpitch hs => ?_, fun s h => catchUp_of_not_operating h⟩
  · obtain ⟨hd, hentries, hrecords, hsettle, hheld, hlost⟩ := (nothingDue_iff s).mp hq.2
    have ht : Triggered cfg s := ⟨hq.1, hd⟩
    refine ⟨congrArg _ (catchTrigger_of_not_due hd), fun i => ?_, fun n => ?_, fun n => ?_, ?_, ?_, ?_⟩
    · rw [exec_yieldReclaim i ht, takeReclaim_of_not_due cfg s i hentries]
    · rw [exec_neighbourAbsent n ht, takeAbsent_of_not_due cfg s n fun r hr => (hrecords r hr).1]
    · rw [exec_notTakingExpire n ht, takeExpire_of_not_due cfg s n fun r hr => (hrecords r hr).2]
    · rw [exec_settleEnd ht, takeSettleEnd, if_neg hsettle]
    · rw [exec_attitudeHeld ht, takeHeld, if_neg hheld]
    · rw [exec_attitudeLost ht, takeLost, if_neg hlost]
  · have hq := catchUp_quiet hp hpitch hs
    exact ⟨hq, runAll_dueEvents hp hpitch, exec_catchUp (catchUp_of_quiet hq)⟩

end Sys2Proof.Machine
end

section
/-! SUPPORT. The events that a trigger's ageing makes due, each with its condition met. -/

namespace Sys2Proof.Machine

/-- The record at place k of the list is that of station k + 1 (R99). -/
theorem neighbour_of_record {s : State} {k : Nat} {r : Neighbour} (h : s.nl[k]? = some r) :
    s.neighbour (k + 1) = r := by
  show s.nl.getD k .reset = r
  rw [List.getD_eq_getElem?_getD, h]
  rfl

theorem takeAbsent_due (cfg : Startup) {s : State} {t : Nat} (h : AbsenceDue s t) :
    takeAbsent cfg s t = latchZone cfg (s.setNeighbour t { s.neighbour t with state := .absent }) := if_pos h

theorem takeExpire_due (cfg : Startup) {s : State} {t : Nat} (h : ExpiryDue s t) :
    takeExpire cfg s t = latchZone cfg (s.setNeighbour t { s.neighbour t with heldBack := false }) := if_pos h

/-- Settles O17: each of the five events with its condition met. -/
theorem ageingEventsTakeEffect : Obligations.AgeingEventsTakeEffect := by
  intro cfg s hp hd
  have ht : Triggered cfg s := ⟨hp, hd⟩
  refine ⟨fun hst hc => ?_, fun hst ha => ?_, fun hst ha => ?_, fun k r hr => ?_⟩
  · rw [exec_settleEnd ht, takeSettleEnd, if_pos ⟨hst, hc⟩]
    rfl
  · rw [exec_attitudeHeld ht, takeHeld, if_pos ⟨hst, ha⟩]
    rfl
  · rw [exec_attitudeLost ht, takeLost, if_pos ⟨hst, ha⟩]
    rfl
  · have hn := neighbour_of_record hr
    refine ⟨fun hst ha => ?_, fun hh hz => ?_⟩
    · have hdue : AbsenceDue s (k + 1) := by rw [AbsenceDue, hn]; exact ⟨hst, ha⟩
      rw [exec_neighbourAbsent _ ht, takeAbsent_due cfg hdue, hn]
      rfl
    · have hdue : ExpiryDue s (k + 1) := by rw [ExpiryDue, hn]; exact ⟨hh, hz⟩
      rw [exec_notTakingExpire _ ht, takeExpire_due cfg hdue, hn]
      rfl

end Sys2Proof.Machine
end

section
/-! SUPPORT. What an interference event does to the slot, the flags and the open block, and how a dark row's frame is
then treated. -/

namespace Sys2Proof.Machine

/-! ### Neighbours in slot range -/

theorem mem_stations {t : Nat} : t ∈ stations ↔ 1 ≤ t ∧ t ≤ 8 := by
  simp only [stations, List.mem_cons, List.not_mem_nil, or_false]
  omega

/-- A PRESENT neighbour whose sensor range reaches this head's (R25). -/
theorem inSlotRange_iff (r : Neighbour) (mount : Int) :
    r.inSlotRange mount = true ↔
      r.state = .present ∧ ∃ m, r.mountOffset = some m ∧ (m - mount).natAbs ≤ 1024000 := by
  unfold Neighbour.inSlotRange Neighbour.near
  cases r.mountOffset <;> simp

/-- Station k collides with this head (R25). -/
def Collides (cfg : Startup) (s : State) (k : Nat) : Prop :=
  (s.neighbour k).state = .present
    ∧ (∃ m, (s.neighbour k).mountOffset = some m ∧ (m - cfg.mountOffset).natAbs ≤ 1024000)
    ∧ (s.neighbour k).slot = some s.ec.currentSlot

theorem mem_colliding {cfg : Startup} {s : State} {k : Nat} :
    k ∈ colliding cfg s ↔ (1 ≤ k ∧ k ≤ 8) ∧ Collides cfg s k := by
  simp [colliding, Collides, mem_stations, inSlotRange_iff, and_assoc]

/-- This head answers an interference event by a hop (R26). -/
def Hops (cfg : Startup) (s : State) : Prop :=
  s.ec.state = .steady ∧ (∃ k, 1 ≤ k ∧ k ≤ 8 ∧ Collides cfg s k)
    ∧ ∀ k, 1 ≤ k → k ≤ 8 → Collides cfg s k → k < s.src.station

theorem hops_iff (cfg : Startup) (s : State) :
    (s.ec.state = .steady ∧ colliding cfg s ≠ [] ∧ (colliding cfg s).all (· < s.src.station) = true) ↔
      Hops cfg s := by
  have hne : colliding cfg s ≠ [] ↔ ∃ k, 1 ≤ k ∧ k ≤ 8 ∧ Collides cfg s k := by
    constructor
    · intro h
      obtain ⟨k, hk⟩ := List.exists_mem_of_ne_nil _ h
      obtain ⟨⟨h1, h8⟩, hc⟩ := mem_colliding.mp hk
      exact ⟨k, h1, h8, hc⟩
    · rintro ⟨k, h1, h8, hc⟩
      exact List.ne_nil_of_mem (mem_colliding.mpr ⟨⟨h1, h8⟩, hc⟩)
  have hall : (colliding cfg s).all (· < s.src.station) = true ↔
      ∀ k, 1 ≤ k → k ≤ 8 → Collides cfg s k → k < s.src.station := by
    simp only [List.all_eq_true, mem_colliding, decide_eq_true_eq, and_imp]
  rw [hne, hall]
  rfl

/-- The users of a slot, counted as R27 says. -/
theorem slotUsers_eq (cfg : Startup) (s : State) (q : Nat) :
    slotUsers cfg s q = (stations.filter fun k =>
      decide ((s.neighbour k).state = .present
        ∧ (∃ m ∈ (s.neighbour k).mountOffset, (m - cfg.mountOffset).natAbs ≤ 1024000)
        ∧ (s.neighbour k).slot = some q)).length := by
  unfold slotUsers
  rw [List.countP_eq_length_filter]
  congr 1
  apply List.filter_congr
  intro k _
  rw [Bool.eq_iff_iff]
  simp [inSlotRange_iff, and_assoc]

/-! ### The slot a hop chooses -/

/-- Of slots in ascending order, one with the fewest users is found, the lowest of equals (R27). -/
theorem leastUsed_least (count : Nat → Nat) : ∀ {l : List Nat}, l ≠ [] → l.Pairwise (· < ·) →
    ∃ p ∈ l, leastUsed count l = some p ∧ ∀ q ∈ l, count p < count q ∨ count p = count q ∧ p ≤ q
  | [], h, _ => absurd rfl h
  | [a], _, _ => ⟨a, by simp, rfl, by simp⟩
  | a :: b :: l, _, hs => by
    obtain ⟨ha, hs'⟩ := List.pairwise_cons.mp hs
    obtain ⟨p, hp, hl, hleast⟩ := leastUsed_least count (List.cons_ne_nil b l) hs'
    have hap := ha p hp
    by_cases hc : count p < count a
    · refine ⟨p, List.mem_cons_of_mem a hp, by rw [leastUsed, hl]; exact if_pos hc, fun q hq => ?_⟩
      rcases List.mem_cons.mp hq with rfl | hq
      · exact .inl hc
      · exact hleast q hq
    · refine ⟨a, List.mem_cons_self, by rw [leastUsed, hl]; exact if_neg hc, fun q hq => ?_⟩
      rcases List.mem_cons.mp hq with rfl | hq
      · exact .inr ⟨rfl, le_rfl⟩
      · have := hleast q hq
        omega

/-- The other slots, which a hop chooses from. -/
theorem mem_otherSlots {c q : Nat} : q ∈ [0, 1, 2, 3].filter (· != c) ↔ q ≤ 3 ∧ q ≠ c := by
  simp only [List.mem_filter, List.mem_cons, List.not_mem_nil, or_false, bne_iff_ne]
  omega

/-- The slot a hop chooses is the least used of the others, the lowest of equals (R27). -/
theorem chooseSlot_least (cfg : Startup) (s : State) :
    chooseSlot cfg s ≤ 3 ∧ chooseSlot cfg s ≠ s.ec.currentSlot
      ∧ ∀ q, q ≤ 3 → q ≠ s.ec.currentSlot →
          slotUsers cfg s (chooseSlot cfg s) < slotUsers cfg s q
            ∨ slotUsers cfg s (chooseSlot cfg s) = slotUsers cfg s q ∧ chooseSlot cfg s ≤ q := by
  have hne : [0, 1, 2, 3].filter (· != s.ec.currentSlot) ≠ [] := by
    by_cases h0 : s.ec.currentSlot = 0
    · exact List.ne_nil_of_mem (mem_otherSlots.mpr ⟨by omega, by omega⟩ : 1 ∈ _)
    · exact List.ne_nil_of_mem (mem_otherSlots.mpr ⟨by omega, Ne.symm h0⟩ : 0 ∈ _)
  have hsorted : ([0, 1, 2, 3].filter (· != s.ec.currentSlot)).Pairwise (· < ·) :=
    List.Pairwise.filter _ (by decide)
  obtain ⟨p, hp, hl, hleast⟩ := leastUsed_least (slotUsers cfg s) hne hsorted
  have he : chooseSlot cfg s = p := by rw [chooseSlot, hl]; rfl
  obtain ⟨h3, hcur⟩ := mem_otherSlots.mp hp
  rw [he]
  exact ⟨h3, hcur, fun q hq hqc => hleast q (mem_otherSlots.mpr ⟨hq, hqc⟩)⟩

/-! ### The second stray dark row -/

theorem takeStrayCount_second (cfg : Startup) {n : Nat} {s : State} (hn : 16 ≤ n) (hs : s.ec.strayStreak ≠ 0) :
    takeStrayCount cfg n s = interference cfg (s.setEc { s.ec with strayStreak := 0 }) := by
  unfold takeStrayCount
  rw [if_neg (by omega), if_neg hs]

/-- The hop of a second stray row (R26, R27, R29, R31). -/
theorem takeStrayCount_hops {cfg : Startup} {n : Nat} {s : State} (hn : 16 ≤ n) (hs : s.ec.strayStreak ≠ 0)
    (h : Hops cfg s) :
    takeStrayCount cfg n s = { s with
      ec := { s.ec with
        pendingSlot := some (chooseSlot cfg s), state := .settling, settleCount := 64, strayStreak := 0 }
      lc := { s.lc with sticky := s.lc.sticky ||| StickyFlag.hopped.mask } } := by
  rw [takeStrayCount_second cfg hn hs]
  exact if_pos ((hops_iff cfg (s.setEc { s.ec with strayStreak := 0 })).mpr h)

/-- AMBIENT for a second stray row that no hop answers (R30). -/
theorem takeStrayCount_ambient {cfg : Startup} {n : Nat} {s : State} (hn : 16 ≤ n) (hs : s.ec.strayStreak ≠ 0)
    (h : ¬Hops cfg s) :
    takeStrayCount cfg n s = { s with
      ec := { s.ec with strayStreak := 0 }
      ss := { s.ss with openBlock := s.ss.openBlock.map fun b => { b with ambient := true } }
      lc := { s.lc with sticky := s.lc.sticky ||| StickyFlag.ambient.mask } } := by
  rw [takeStrayCount_second cfg hn hs]
  exact if_neg (mt (hops_iff cfg (s.setEc { s.ec with strayStreak := 0 })).mp h)

/-! ### The treatment of a row's frame -/

/-- The treatment of a frame that is not the last of its block lets closed blocks settle (R131, R132). -/
theorem settleReady_naturalEnd_other (cfg : Startup) {f : Word32} {u : State}
    (h : f.toNat % 32 ≠ 31 ∨ ∀ b, u.ss.openBlock = some b → b.closing = none
      ∧ ¬(f.toNat % 32 = 31 ∧ (f - b.openFrame).toNat ≤ (u.du.frameIndex - b.openFrame).toNat)) :
    SettlesAfter u (settleReady cfg (naturalEnd cfg f u)) := by
  rw [naturalEnd_other cfg h]
  exact settleReady_settlesAfter cfg u

/-- That of the last frame of the open block ends the block (R131). -/
theorem settleReady_naturalEnd_ends (cfg : Startup) {f : Word32} {u : State} {b : Block}
    (hb : u.ss.openBlock = some b) (hc : b.closing = none) (h31 : f.toNat % 32 = 31)
    (hr : (f - b.openFrame).toNat ≤ (u.du.frameIndex - b.openFrame).toNat) :
    EndsBlock cfg f u.du.distance b u (settleReady cfg (naturalEnd cfg f u)) := by
  rw [naturalEnd_ends cfg hb hc h31 hr]
  refine ⟨closeBlock cfg f u, ?_, closeBlock_closesTo cfg f hb, settleReady_settlesAfter cfg _⟩
  rw [(closeBlock_frame cfg f u).1]

/-- Two states agree in all that a close and a settling speak of. -/
structure SameForClose (u a : State) : Prop where
  du : u.du = a.du
  ss : u.ss = a.ss
  lc : u.lc = a.lc
  tt : u.tt = a.tt
  held : heldFrames u = heldFrames a

theorem SameForClose.settlesAfter {u a t : State} (h : SameForClose u a) (hs : SettlesAfter u t) : SettlesAfter a t :=
  settlesAfter_congr h.ss h.lc h.tt h.held hs

theorem SameForClose.endsBlock {cfg : Startup} {last d : Word32} {b : Block} {u a t : State} (h : SameForClose u a)
    (he : EndsBlock cfg last d b u t) : EndsBlock cfg last d b a t := by
  obtain ⟨w, hw, hclose, hsettle⟩ := he
  have hheld : heldFrames w = heldFrames a := by rw [hw]; exact h.held
  exact ⟨{ a with tt := w.tt, ss := w.ss, lc := w.lc }, rfl, closesTo_congr h.ss h.lc h.tt h.held hclose,
    settlesAfter_congr (s' := w) rfl rfl rfl hheld hsettle⟩

/-- So much of the state after is all that a natural end speaks of. -/
theorem endsBlock_congr_after {cfg : Startup} {last d : Word32} {b : Block} {s t t' : State} (h1 : t'.ss = t.ss)
    (h2 : t'.lc = t.lc) (h3 : t'.tt = t.tt) (h : EndsBlock cfg last d b s t) : EndsBlock cfg last d b s t' := by
  obtain ⟨w, hw, hclose, hsettle⟩ := h
  exact ⟨w, hw, hclose, settlesAfter_congr_after h1 h2 h3 hsettle⟩

/-- The state after a dark row's stray count, with its background stored and the row released (R22, R43). -/
def darkRowReleased (cfg : Startup) (row : RowInProcess) (s : State) : State :=
  let u := takeStrayCount cfg (strayCount cfg row.cells) s
  u.setFe { u.fe with background := row.cells.map (·.intensity), inProcess := none }

theorem finishDarkRow_eq (cfg : Startup) (row : RowInProcess) (s : State) :
    finishDarkRow cfg row s =
      takeNextRow (settleReady cfg (naturalEnd cfg row.frame (darkRowReleased cfg row s))) := rfl

theorem exec_darkRowDone {cfg : Startup} {row : RowInProcess} {s : State} (hq : Quiet cfg s)
    (hp : s.fe.inProcess = some row) (hd : row.cls = .dark) :
    exec .darkRowDone s = .next (finishDarkRow cfg row s) := by
  refine (congrArg Host.Outcome.next (inOperating_quiet hq)).trans ?_
  simp only [hp, if_pos hd]

/-- A dark row that is not the open block's last lets closed blocks settle, as in any state that agrees with that of its
release (R132). -/
theorem finishDarkRow_settles (cfg : Startup) {row : RowInProcess} {s a : State}
    (ha : SameForClose (darkRowReleased cfg row s) a)
    (h : row.frame.toNat % 32 ≠ 31 ∨ ∀ b, a.ss.openBlock = some b → b.closing = none
      ∧ ¬(row.frame.toNat % 32 = 31 ∧ (row.frame - b.openFrame).toNat ≤ (a.du.frameIndex - b.openFrame).toNat)) :
    SettlesAfter a (finishDarkRow cfg row s) := by
  rw [← ha.ss, ← ha.du] at h
  rw [finishDarkRow_eq]
  exact settlesAfter_congr_after (by simp) (by simp) (by simp)
    (ha.settlesAfter (settleReady_naturalEnd_other cfg h))

/-- The dark row of the open block's last frame ends the block, as in any such state (R131). -/
theorem finishDarkRow_ends (cfg : Startup) {row : RowInProcess} {s a : State} {b : Block}
    (ha : SameForClose (darkRowReleased cfg row s) a) (hb : a.ss.openBlock = some b) (hc : b.closing = none)
    (h31 : row.frame.toNat % 32 = 31)
    (hr : (row.frame - b.openFrame).toNat ≤ (a.du.frameIndex - b.openFrame).toNat) :
    EndsBlock cfg row.frame a.du.distance b a (finishDarkRow cfg row s) := by
  rw [← ha.ss] at hb
  rw [← ha.du] at hr ⊢
  rw [finishDarkRow_eq]
  exact endsBlock_congr_after (by simp) (by simp) (by simp)
    (ha.endsBlock (settleReady_naturalEnd_ends cfg hb hc h31 hr))

theorem finishDarkRow_ec (cfg : Startup) (row : RowInProcess) (s : State) :
    (finishDarkRow cfg row s).ec = (takeStrayCount cfg (strayCount cfg row.cells) s).ec := by
  simp [finishDarkRow]

/-- The state in which a second stray dark row's frame is treated: the row released, `flag` raised, and the open block
marked as the answer to the interference event marks it. -/
def interferenceAnswered (flag : StickyFlag) (mark : Block → Block) (s : State) : State :=
  { s with
    fe := { s.fe with inProcess := none }
    ss := { s.ss with openBlock := s.ss.openBlock.map mark }
    lc := { s.lc with sticky := s.lc.sticky ||| flag.mask } }

theorem released_hops {cfg : Startup} {row : RowInProcess} {s : State} (hn : 16 ≤ strayCount cfg row.cells)
    (hs : s.ec.strayStreak ≠ 0) (h : Hops cfg s) :
    SameForClose (darkRowReleased cfg row s) (interferenceAnswered .hopped id s) := by
  unfold darkRowReleased
  rw [takeStrayCount_hops hn hs h]
  exact ⟨rfl, by simp [interferenceAnswered], rfl, rfl, rfl⟩

theorem released_ambient {cfg : Startup} {row : RowInProcess} {s : State} (hn : 16 ≤ strayCount cfg row.cells)
    (hs : s.ec.strayStreak ≠ 0) (h : ¬Hops cfg s) :
    SameForClose (darkRowReleased cfg row s)
      (interferenceAnswered .ambient (fun b => { b with ambient := true }) s) := by
  unfold darkRowReleased
  rw [takeStrayCount_ambient hn hs h]
  exact ⟨rfl, rfl, rfl, rfl, rfl⟩

/-- The end or the settling of blocks at a second stray dark row, told of the open block as it stood before its mark,
which leaves its frames alone (R131, R132). -/
theorem finishDarkRow_answered (cfg : Startup) {row : RowInProcess} {s : State} {flag : StickyFlag}
    {mark : Block → Block} (hopen : ∀ b, (mark b).openFrame = b.openFrame)
    (hclosing : ∀ b, (mark b).closing = b.closing)
    (ha : SameForClose (darkRowReleased cfg row s) (interferenceAnswered flag mark s)) :
    let ends (b : Block) : Prop :=
      row.frame.toNat % 32 = 31 ∧ (row.frame - b.openFrame).toNat ≤ (s.du.frameIndex - b.openFrame).toNat
    (row.frame.toNat % 32 ≠ 31 ∨ (∀ b, s.ss.openBlock = some b → b.closing = none ∧ ¬ends b) →
        SettlesAfter (interferenceAnswered flag mark s) (finishDarkRow cfg row s))
      ∧ ∀ b, s.ss.openBlock = some b → b.closing = none → ends b →
          EndsBlock cfg row.frame s.du.distance (mark b) (interferenceAnswered flag mark s)
            (finishDarkRow cfg row s) := by
  intro ends
  refine ⟨fun h => finishDarkRow_settles cfg ha (h.imp_right fun hall b' hb' => ?_), fun b hb hc he => ?_⟩
  · obtain ⟨b, hb, rfl⟩ := Option.map_eq_some_iff.mp hb'
    rw [hopen, hclosing]
    exact hall b hb
  · have hb' : (interferenceAnswered flag mark s).ss.openBlock = some (mark b) := congrArg (Option.map mark) hb
    exact finishDarkRow_ends cfg ha hb' ((hclosing b).trans hc) he.1 (by rw [hopen]; exact he.2)

/-- Settles O27: the event is answered by a hop or as ambient light, and the row's frame is then treated. -/
theorem interferenceHopsOrReportsAmbient : Obligations.InterferenceHopsOrReportsAmbient := by
  intro cfg row s hq hp hd hstray hstreak collides hops users ended
  rw [← strayCount_eq] at hstray
  refine ⟨_, exec_darkRowDone hq hp hd, fun h => ?_, fun h => ?_⟩
  · have h' : Hops cfg s := h
    refine ⟨finishDarkRow_answered cfg (fun _ => rfl) (fun _ => rfl) (released_hops hstray hstreak h'),
      chooseSlot cfg s, ?_, ?_⟩
    · rw [finishDarkRow_ec, takeStrayCount_hops hstray hstreak h']
    · have hleast := chooseSlot_least cfg s
      simp only [slotUsers_eq] at hleast
      exact hleast
  · have h' : ¬Hops cfg s := h
    refine ⟨finishDarkRow_answered cfg (fun _ => rfl) (fun _ => rfl) (released_ambient hstray hstreak h'), ?_⟩
    rw [finishDarkRow_ec, takeStrayCount_ambient hstray hstreak h']

end Sys2Proof.Machine
end

section
/-! SUPPORT. What the link, blocks, triggers and due events leave of the capacities of queues, buffers, tables and lanes. -/

namespace Sys2Proof.Machine

/-! ### The transmit queue -/

/-- The link's capacities speak of its queue, its transmit state and its buffers alone. -/
theorem LinkController.Bounded.congr {l m : LinkController} (h : l.Bounded) (hq : m.txQueue = l.txQueue)
    (ht : m.tx = l.tx) (hb : m.rxBuffers = l.rxBuffers) : m.Bounded := by
  obtain ⟨hqueue, hone, hbuf, hidle⟩ := h
  exact ⟨hq ▸ hqueue, by unfold headstates at *; rw [hq]; exact hone, hb ▸ hbuf, by rw [ht, hq]; exact hidle⟩

theorem join_bounded {l : LinkController} {x : Telegram} (h : l.Bounded) (hroom : l.txQueue.length < 12)
    (hx : x.isHeadstate = true → l.headstates = 0) : (l.join x).Bounded := by
  obtain ⟨hqueue, hone, hbuf, -⟩ := h
  rw [join_eq]
  refine ⟨?_, ?_, hbuf, ?_⟩
  · simp only [List.length_append, List.length_singleton]
    exact hroom
  · simp only [LinkController.headstates, List.countP_append, List.countP_singleton] at *
    by_cases hh : x.isHeadstate = true
    · rw [hx hh, if_pos hh]
    · rw [if_neg hh]
      exact hone
  · by_cases hi : l.tx = .idle <;> simp [hi]

theorem displace_bounded {l : LinkController} {i : Nat} {x y : Telegram} (h : l.Bounded) (hy : l.txQueue[i]? = some y)
    (hx : x.isHeadstate = true → l.headstates = 0) : (l.displace i x).Bounded := by
  obtain ⟨hqueue, hone, hbuf, hidle⟩ := h
  have hlt : i < l.txQueue.length := (List.getElem?_eq_some_iff.mp hy).1
  have hne : l.txQueue ≠ [] := List.ne_nil_of_length_pos (Nat.zero_lt_of_lt hlt)
  have hcount : (l.txQueue.eraseIdx i).countP Telegram.isHeadstate ≤ l.headstates :=
    (List.eraseIdx_sublist _ _).countP_le
  rw [displace_eq]
  refine ⟨?_, ?_, hbuf, ?_⟩
  · simp only [List.length_append, List.length_eraseIdx_of_lt hlt, List.length_singleton]
    omega
  · simp only [LinkController.headstates, List.countP_append, List.countP_singleton] at *
    by_cases hh : x.isHeadstate = true
    · rw [if_pos hh]
      have := hx hh
      omega
    · rw [if_neg hh]
      omega
  · by_cases hi : i = 0 <;> simp [hi, hidle, hne]

/-- A HEADSTATE takes the place of another (R181). -/
theorem replaceAt_bounded {l : LinkController} {i : Nat} {x y : Telegram} (h : l.Bounded)
    (hy : l.txQueue[i]? = some y) (hh : y.isHeadstate = true) : (l.replaceAt i x).Bounded := by
  obtain ⟨hqueue, hone, hbuf, hidle⟩ := h
  obtain ⟨hlt, rfl⟩ := List.getElem?_eq_some_iff.mp hy
  have hne : l.txQueue ≠ [] := List.ne_nil_of_length_pos (Nat.zero_lt_of_lt hlt)
  have hcount : (l.txQueue.set i x).countP Telegram.isHeadstate ≤ 1 := by
    rw [List.countP_set hlt, if_pos hh]
    unfold LinkController.headstates at hone
    split <;> omega
  unfold LinkController.replaceAt
  dsimp only
  split
  · refine ⟨by simpa [LinkController.stopDriving] using hqueue, hcount, hbuf, ?_⟩
    simp [LinkController.stopDriving, hne]
  · exact ⟨by simpa using hqueue, hcount, hbuf, by simp [hidle]⟩

/-- Where no HEADSTATE can be displaced and none is in transmission, none is queued (R181). -/
theorem headstates_eq_zero {l : LinkController} (ho : l.oldest Telegram.isHeadstate = none)
    (hs : l.sendsHeadstate = false) : l.headstates = 0 := by
  rw [LinkController.headstates, List.countP_eq_zero]
  intro x hx hh
  obtain ⟨i, hi⟩ := List.mem_iff_getElem?.mp hx
  obtain ⟨ht, rfl⟩ := oldest_none ho i x hi hh
  have : l.sendsHeadstate = true := by simp [LinkController.sendsHeadstate, ht, List.head?_eq_getElem?, hi, hh]
  rw [this] at hs
  cases hs

/-- Queuing a HEADSTATE, where none is in transmission, keeps the link's capacities (R181). -/
theorem queueHeadstate_bounded {s : State} (h : s.lc.Bounded) (hs : s.lc.sendsHeadstate = false) :
    (queueHeadstate s).lc.Bounded := by
  have ht : (takenByHeadstate s).lc.Bounded := h.congr rfl rfl rfl
  unfold queueHeadstate
  dsimp only
  split
  · rename_i i hi
    obtain ⟨y, hy, hh, -⟩ := oldest_some hi
    exact replaceAt_bounded ht hy hh
  · rename_i hn
    have h0 : (takenByHeadstate s).lc.headstates = 0 := headstates_eq_zero hn hs
    split
    · rename_i hroom
      exact join_bounded ht hroom fun _ => h0
    · split
      · rename_i i hi
        obtain ⟨y, hy, -⟩ := oldest_some hi
        exact displace_bounded ht hy fun _ => h0
      · exact h.congr rfl rfl rfl

theorem headstateDue_bounded {s : State} (h : s.lc.Bounded) : (headstateDue s).lc.Bounded := by
  unfold headstateDue
  split
  · exact h.congr rfl rfl rfl
  · rename_i hs
    exact queueHeadstate_bounded h (by simpa using hs)

theorem queueWaitingHeadstate_bounded {s : State} (h : s.lc.Bounded) (hs : s.lc.sendsHeadstate = false) :
    (queueWaitingHeadstate s).lc.Bounded := by
  unfold queueWaitingHeadstate
  split
  · exact queueHeadstate_bounded (s := s.setLc { s.lc with headstateDue := false }) (h.congr rfl rfl rfl) hs
  · exact h

theorem queueSighting_bounded {s : State} (g : Sighting) (h : s.lc.Bounded) : (queueSighting g s).1.lc.Bounded := by
  unfold queueSighting
  split
  · rename_i hroom
    exact join_bounded h hroom (by simp [Telegram.isHeadstate])
  · exact h.congr rfl rfl rfl

theorem queueHandover_bounded {s : State} (g : Handover) (h : s.lc.Bounded) : (queueHandover g s).lc.Bounded := by
  have hx : (Telegram.handover g).isHeadstate = true → s.lc.headstates = 0 := by simp [Telegram.isHeadstate]
  rcases queueHandover_cases g s with ⟨hroom, e⟩ | ⟨-, ⟨i, y, hy, -, e⟩ | ⟨i, y, hy, -, e⟩ | e⟩
  · rw [e]
    exact join_bounded h hroom hx
  · rw [e]
    exact (displace_bounded h hy hx).congr rfl rfl rfl
  · rw [e]
    have hr : (returnHeadstate y s).lc.Bounded := h.congr rfl rfl rfl
    exact (displace_bounded hr (y := .headstate y) hy hx).congr rfl rfl rfl
  · rw [e]
    exact h.congr rfl rfl rfl

/-- The telegram concerned leaves: the capacities are kept, and what comes next has not been sent (R174, R175). -/
theorem leave_bounded {l : LinkController} (h : l.Bounded) (rx : RxState) :
    (l.leave rx).Bounded ∧ (l.leave rx).sendsHeadstate = false := by
  obtain ⟨hqueue, hone, hbuf, -⟩ := h
  have hcount : l.txQueue.tail.countP Telegram.isHeadstate ≤ 1 := (List.tail_sublist _).countP_le.trans hone
  have hlen : l.txQueue.tail.length ≤ 12 := by rw [List.length_tail]; exact (Nat.sub_le _ _).trans hqueue
  unfold LinkController.leave LinkController.takeHead
  dsimp only
  split
  · rename_i hne
    exact ⟨⟨hlen, hcount, hbuf, by simpa using hne⟩, rfl⟩
  · rename_i hne
    exact ⟨⟨hlen, hcount, hbuf, by simpa using hne⟩, rfl⟩

/-! ### What keeps every capacity -/

/-- The tables keep their sizes, and the open block does not come to bind more lanes than it can. -/
structure SizesKept (s t : State) : Prop where
  entries : t.tt.entries.length = s.tt.entries.length
  records : t.nl.length = s.nl.length
  banks : t.ss.banks.length = s.ss.banks.length
  lanes : s.ss.boundLanes ≤ 8 → t.ss.boundLanes ≤ 8

theorem SizesKept.of_eq {s t : State} (htt : t.tt.entries.length = s.tt.entries.length) (hnl : t.nl = s.nl)
    (hss : t.ss = s.ss) : SizesKept s t := ⟨htt, by rw [hnl], by rw [hss], by rw [hss]; exact id⟩

/-- Every capacity that holds in `s` holds in `t`. -/
structure CapacitiesKept (s t : State) : Prop where
  link : s.lc.Bounded → t.lc.Bounded
  front : s.fe.Bounded → t.fe.Bounded
  sizes : SizesKept s t

theorem CapacitiesKept.refl (s : State) : CapacitiesKept s s := ⟨id, id, .of_eq rfl rfl rfl⟩

theorem CapacitiesKept.trans {a b c : State} (h1 : CapacitiesKept a b) (h2 : CapacitiesKept b c) :
    CapacitiesKept a c :=
  ⟨h2.link ∘ h1.link, h2.front ∘ h1.front, h2.sizes.entries.trans h1.sizes.entries,
    h2.sizes.records.trans h1.sizes.records, h2.sizes.banks.trans h1.sizes.banks, h2.sizes.lanes ∘ h1.sizes.lanes⟩

theorem CapacitiesKept.of_sizes {s t : State} (hlc : t.lc = s.lc) (hfe : t.fe = s.fe) (h : SizesKept s t) :
    CapacitiesKept s t := ⟨by rw [hlc]; exact id, by rw [hfe]; exact id, h⟩

theorem CapacitiesKept.of_link {s t : State} (hlc : s.lc.Bounded → t.lc.Bounded) (hfe : t.fe = s.fe)
    (htt : t.tt = s.tt) (hnl : t.nl = s.nl) (hss : t.ss = s.ss) : CapacitiesKept s t :=
  ⟨hlc, by rw [hfe]; exact id, .of_eq (by rw [htt]) hnl hss⟩

theorem boundLanes_le_iff (ss : StripStore) :
    ss.boundLanes ≤ 8 ↔ ∀ b, ss.openBlock = some b → b.lanes.length ≤ Config.lanes := by
  unfold StripStore.boundLanes
  cases ss.openBlock <;> simp

theorem CapacitiesKept.sized {s t : State} (h : CapacitiesKept s t) (hs : s.Sized) : t.Sized := by
  obtain ⟨hentries, hrecords, hbanks, hlanes⟩ := hs
  refine ⟨h.sizes.entries.trans hentries, h.sizes.records.trans hrecords, h.sizes.banks.trans hbanks, ?_⟩
  rw [← boundLanes_le_iff] at hlanes ⊢
  exact h.sizes.lanes hlanes

theorem foldl_capacitiesKept {β : Type} (f : State → β → State) (h : ∀ s b, CapacitiesKept s (f s b)) (l : List β)
    (s : State) : CapacitiesKept s (l.foldl f s) :=
  foldl_related CapacitiesKept .refl (fun _ _ _ => .trans) f h l s

theorem raise_capacitiesKept (s : State) (f : StickyFlag) : CapacitiesKept s (s.raise f) :=
  .of_link (fun h => h.congr rfl rfl rfl) rfl rfl rfl rfl

theorem raiseIf_capacitiesKept (s : State) (c : Bool) (f : StickyFlag) : CapacitiesKept s (s.raiseIf c f) := by
  unfold State.raiseIf
  split
  · exact raise_capacitiesKept s f
  · exact .refl s

theorem headstateDue_capacitiesKept (s : State) : CapacitiesKept s (headstateDue s) :=
  .of_link headstateDue_bounded (by simp) (by simp) (by simp) (by simp)

/-! ### Blocks and banks -/

@[simp] theorem boundLanes_mapLanes (ss : StripStore) (g : Block → Lane → Lane) :
    (ss.mapLanes g).boundLanes = ss.boundLanes := by
  unfold StripStore.boundLanes StripStore.mapLanes
  cases ss.openBlock <;> simp [Block.mapLanes]

/-- A change to lanes leaves their number as it was. -/
theorem mapLanes_sizesKept (s : State) (g : Block → Lane → Lane) : SizesKept s (s.setSs (s.ss.mapLanes g)) :=
  ⟨rfl, rfl, rfl, by rw [State.setSs_ss, boundLanes_mapLanes]; exact id⟩

theorem setEntry_sizesKept (s : State) (i : Nat) (e : Option Entry) : SizesKept s (s.setEntry i e) :=
  .of_eq List.length_set rfl rfl

theorem reportLane_capacitiesKept (cfg : Startup) (b : Block) (r : Lane → LaneResult) (s : State) (l : Lane) :
    CapacitiesKept s (reportLane cfg b r s l) := by
  refine ⟨fun h => ?_, by simp, (reportLane_frame cfg b r s l).2.length_eq, by simp, by simp, by simp⟩
  unfold reportLane
  split
  · exact h
  · dsimp only
    split
    · exact queueSighting_bounded _ h
    · exact queueSighting_bounded _ h

theorem reportBlock_capacitiesKept (cfg : Startup) (b : Block) (r : Lane → LaneResult) (s : State) :
    CapacitiesKept s (reportBlock cfg b r s) :=
  foldl_capacitiesKept _ (reportLane_capacitiesKept cfg b r) b.lanes s

/-- A change of the state of a bank. -/
theorem setBank_capacitiesKept (s : State) (k : Nat) (x : Bank) (c : Option Nat) :
    CapacitiesKept s (s.setSs { s.ss.setBank k x with computing := c }) :=
  .of_sizes rfl rfl ⟨rfl, rfl, List.length_set, id⟩

theorem startCompute_capacitiesKept (k : Nat) (b : Block) (s : State) : CapacitiesKept s (startCompute k b s) := by
  unfold startCompute
  split <;> exact setBank_capacitiesKept s k _ _

theorem settleBlock_capacitiesKept (cfg : Startup) (s : State) (b : Block) :
    CapacitiesKept s (settleBlock cfg s b) := by
  unfold settleBlock
  dsimp only
  split
  · exact reportBlock_capacitiesKept cfg _ _ s
  · split
    · exact setBank_capacitiesKept s _ _ _
    · split
      · exact startCompute_capacitiesKept _ _ s
      · exact setBank_capacitiesKept s _ _ _

theorem settleReady_capacitiesKept (cfg : Startup) (s : State) : CapacitiesKept s (settleReady cfg s) :=
  .trans (b := s.setSs { s.ss with settling := s.ss.settling.filter fun b => owesFrames s b })
    (.of_sizes rfl rfl ⟨rfl, rfl, rfl, id⟩) (foldl_capacitiesKept _ (settleBlock_capacitiesKept cfg) _ _)

theorem closeBlock_capacitiesKept (cfg : Startup) (f : Word32) (s : State) :
    CapacitiesKept s (closeBlock cfg f s) := by
  unfold closeBlock
  split
  · exact .refl s
  · dsimp only
    have hdropped : CapacitiesKept s ((s.setSs { s.ss with openBlock := none }).setTt
        { s.tt with entries := s.tt.entries.map fun p => p.map fun e => { e with lane := none } }) :=
      .of_sizes rfl rfl ⟨List.length_map _, rfl, rfl, fun _ => Nat.zero_le 8⟩
    split
    · exact hdropped.trans (settleBlock_capacitiesKept cfg _ _)
    · split
      · exact hdropped.trans (settleBlock_capacitiesKept cfg _ _)
      · exact hdropped.trans (.of_sizes rfl rfl ⟨rfl, rfl, rfl, id⟩)

theorem naturalEnd_capacitiesKept (cfg : Startup) (f : Word32) (s : State) :
    CapacitiesKept s (naturalEnd cfg f s) := by
  unfold naturalEnd
  split
  · split
    · exact closeBlock_capacitiesKept cfg f s
    · exact .refl s
  · exact .refl s

theorem treatAbsent_capacitiesKept (cfg : Startup) (s : State) (f : Word32) :
    CapacitiesKept s (treatAbsent cfg s f) := by
  refine .trans (b := frameAbsent cfg s f) ?_ (settleReady_capacitiesKept cfg _)
  unfold frameAbsent
  dsimp only
  split
  · exact naturalEnd_capacitiesKept cfg f s
  · refine .trans ?_ (naturalEnd_capacitiesKept cfg f _)
    exact .of_sizes rfl rfl (mapLanes_sizesKept s _)

theorem skipInLanes_length (b : Block) : (skipInLanes b).lanes.length = b.lanes.length := List.length_map _

theorem frameSkipped_capacitiesKept (cfg : Startup) (f : Word32) (s : State) :
    CapacitiesKept s (frameSkipped cfg f s) := by
  unfold frameSkipped
  dsimp only
  split
  · exact naturalEnd_capacitiesKept cfg f s
  · refine .trans ?_ (naturalEnd_capacitiesKept cfg f _)
    refine .of_sizes rfl rfl ⟨rfl, rfl, rfl, ?_⟩
    unfold StripStore.boundLanes
    cases s.ss.openBlock with
    | none => exact id
    | some b => exact (skipInLanes_length b).le.trans

/-- A lane is bound only while fewer than 8 are (R129). -/
theorem offerLane_capacitiesKept (i : Nat) (f : Word32) (s : State) : CapacitiesKept s (offerLane i f s) := by
  refine .of_sizes (by simp) (by simp) ?_
  unfold offerLane
  split
  · split
    · rename_i b e hb he hl
      refine ⟨List.length_set, rfl, rfl, fun _ => ?_⟩
      show (b.lanes ++ [newLane e b.lanes.length f]).length ≤ 8
      rw [List.length_append, List.length_singleton]
      exact hl
    · exact .of_eq rfl rfl rfl
  · exact .of_eq rfl rfl rfl

/-- A block opens with a lane for each OWNED or COASTING entry, of which there are at most 8 (R128). -/
theorem openBlock_capacitiesKept (cfg : Startup) (s : State) : CapacitiesKept s (openBlock cfg s) := by
  obtain ⟨hss, -, -, hlc, -⟩ := openBlock_opens cfg s
  refine ⟨fun h => ?_, by simp, (openBlock_trigger cfg s).2.length_eq, by simp, ?_, fun _ => ?_⟩
  · rw [hlc]
    split
    · exact h.congr rfl rfl rfl
    · exact h
  · rw [hss]
    unfold StripStore.opened
    cases s.ss.freeBank with
    | none => rfl
    | some k => exact List.length_set
  · rw [hss]
    show (lanesFor _ ((List.range 8).filterMap (ownerAt s))).length ≤ 8
    simpa [lanesFor] using List.length_filterMap_le (ownerAt s) (List.range 8)

/-! ### Triggers and due events -/

theorem triggerAgeing_capacitiesKept (cfg : Startup) (s : State) : CapacitiesKept s (triggerAgeing cfg s) :=
  .of_sizes rfl rfl ⟨List.length_map _, List.length_map _, rfl, id⟩

theorem triggerBlocks_capacitiesKept (cfg : Startup) (s : State) : CapacitiesKept s (triggerBlocks cfg s) := by
  have hend : CapacitiesKept s (afterGroupEnd cfg s) := by
    unfold afterGroupEnd
    split
    · exact closeBlock_capacitiesKept cfg _ s
    · exact .refl s
  rw [triggerBlocks_eq]
  dsimp only
  split
  · split
    · exact hend.trans (openBlock_capacitiesKept cfg _)
    · exact hend
  · split
    · exact hend.trans (.of_sizes rfl rfl (.of_eq rfl rfl rfl))
    · exact hend

theorem triggerExposure_capacitiesKept (cfg : Startup) (s : State) : CapacitiesKept s (triggerExposure cfg s) := by
  unfold triggerExposure
  split
  · exact .of_sizes rfl rfl (.of_eq rfl rfl rfl)
  · exact (frameSkipped_capacitiesKept cfg _ s).trans (raise_capacitiesKept _ _)

theorem triggerHeadstate_capacitiesKept (s : State) : CapacitiesKept s (triggerHeadstate s) := by
  unfold triggerHeadstate
  split
  · exact headstateDue_capacitiesKept s
  · exact .refl s

theorem takeTrigger_capacitiesKept (cfg : Startup) (s : State) : CapacitiesKept s (takeTrigger cfg s) := by
  unfold takeTrigger
  split
  · exact (triggerAgeing_capacitiesKept cfg s).trans ((triggerBlocks_capacitiesKept cfg _).trans
      ((triggerExposure_capacitiesKept cfg _).trans (triggerHeadstate_capacitiesKept _)))
  · exact .refl s

theorem setNeighbour_capacitiesKept (s : State) (t : Nat) (r : Neighbour) :
    CapacitiesKept s (s.setNeighbour t r) :=
  .of_sizes (by simp) (by simp) ⟨by simp, by simp, by simp, by simp⟩

theorem latchZone_capacitiesKept (cfg : Startup) (s : State) : CapacitiesKept s (latchZone cfg s) :=
  .of_sizes rfl rfl (.of_eq rfl rfl rfl)

theorem skipNewLanes_capacitiesKept (n : Nat) (s : State) : CapacitiesKept s (skipNewLanes n s) := by
  refine .of_sizes rfl rfl ⟨rfl, rfl, rfl, ?_⟩
  unfold skipNewLanes StripStore.boundLanes
  cases hb : s.ss.openBlock with
  | none => simp
  | some b =>
    simp only [State.setSs_ss, Option.map_some, Option.getD_some, List.length_append, List.length_map,
      List.length_take, List.length_drop]
    omega

theorem reclaim_capacitiesKept (cfg : Startup) (i : Nat) (e : Entry) (s : State) :
    CapacitiesKept s (reclaim cfg i e s) := by
  have hset : CapacitiesKept s (s.setEntry i (some e.reclaimed)) := .of_sizes rfl rfl (setEntry_sizesKept s i _)
  unfold reclaim
  dsimp only
  refine .trans ?_ (latchZone_capacitiesKept cfg _)
  split <;> split
  · exact ((hset.trans (setNeighbour_capacitiesKept _ _ _)).trans (offerLane_capacitiesKept i _ _)).trans
      (skipNewLanes_capacitiesKept _ _)
  · exact (hset.trans (offerLane_capacitiesKept i _ _)).trans (skipNewLanes_capacitiesKept _ _)
  · exact (hset.trans (setNeighbour_capacitiesKept _ _ _)).trans (offerLane_capacitiesKept i _ _)
  · exact hset.trans (offerLane_capacitiesKept i _ _)

theorem takeReclaim_capacitiesKept (cfg : Startup) (s : State) (i : Nat) :
    CapacitiesKept s (takeReclaim cfg s i) := by
  unfold takeReclaim
  split
  · split
    · exact reclaim_capacitiesKept cfg i _ s
    · exact .refl s
  · exact .refl s

theorem takeAbsent_capacitiesKept (cfg : Startup) (s : State) (t : Nat) : CapacitiesKept s (takeAbsent cfg s t) :=
  .of_sizes (by simp) (by simp)
    ⟨by rw [takeAbsent_entries], takeAbsent_records cfg s t, by simp, by simp⟩

theorem takeExpire_capacitiesKept (cfg : Startup) (s : State) (t : Nat) : CapacitiesKept s (takeExpire cfg s t) :=
  .of_sizes (by simp) (by simp)
    ⟨by rw [takeExpire_entries], takeExpire_records cfg s t, by simp, by simp⟩

theorem takeSettleEnd_capacitiesKept (s : State) : CapacitiesKept s (takeSettleEnd s) :=
  .of_sizes (by simp) (by simp) (.of_eq (by simp) (by simp) (by simp))

theorem takeHeld_capacitiesKept (s : State) : CapacitiesKept s (takeHeld s) :=
  .of_sizes (by simp) (by simp) (.of_eq (by simp) (by simp) (by simp))

theorem takeLost_capacitiesKept (s : State) : CapacitiesKept s (takeLost s) :=
  .of_sizes (by simp) (by simp) (.of_eq (by simp) (by simp) (by simp))

theorem takeAged_capacitiesKept (cfg : Startup) (s : State) : CapacitiesKept s (takeAged cfg s) :=
  (foldl_capacitiesKept _ (takeReclaim_capacitiesKept cfg) _ s).trans
    ((foldl_capacitiesKept _ (takeAbsent_capacitiesKept cfg) _ _).trans
      ((foldl_capacitiesKept _ (takeExpire_capacitiesKept cfg) _ _).trans
        ((takeSettleEnd_capacitiesKept _).trans ((takeHeld_capacitiesKept _).trans (takeLost_capacitiesKept _)))))

theorem catchUp_capacitiesKept (s : State) : CapacitiesKept s (catchUp s) := by
  unfold catchUp
  split
  · exact (takeTrigger_capacitiesKept _ s).trans (takeAged_capacitiesKept _ _)
  · exact .refl s

theorem catchTrigger_capacitiesKept (s : State) : CapacitiesKept s (catchTrigger s) := by
  unfold catchTrigger
  split
  · exact takeTrigger_capacitiesKept _ s
  · exact .refl s

end Sys2Proof.Machine
end

section
/-! SUPPORT. What rows, entries, telegrams and the line leave of the capacities. -/

namespace Sys2Proof.Machine

/-! ### The Track Table -/

theorem setEntry_capacitiesKept (s : State) (i : Nat) (e : Option Entry) : CapacitiesKept s (s.setEntry i e) :=
  .of_sizes rfl rfl (setEntry_sizesKept s i e)

theorem stopLanes_capacitiesKept (tag : Byte) (c : StopCause) (s : State) :
    CapacitiesKept s (stopLanes tag c s) := .of_sizes rfl rfl (mapLanes_sizesKept s _)

theorem freeEntry_capacitiesKept (i : Nat) (s : State) : CapacitiesKept s (freeEntry i s) := by
  unfold freeEntry
  split
  · exact .refl s
  · refine .trans ?_ (stopLanes_capacitiesKept _ _ _)
    exact .of_sizes rfl rfl (.of_eq (by simp [State.mapEntries, State.setEntry]) rfl rfl)

theorem updateEntry_capacitiesKept (row : RowInProcess) (taken : List Pairing) (s : State) (i : Nat) :
    CapacitiesKept s (updateEntry row taken s i) := by
  unfold updateEntry
  split
  · exact .refl s
  · dsimp only
    split
    · split
      · exact (setEntry_capacitiesKept s i _).trans (offerLane_capacitiesKept _ _ _)
      · exact setEntry_capacitiesKept s i _
    · exact setEntry_capacitiesKept s i _
    · split
      · exact freeEntry_capacitiesKept i s
      · split
        · exact freeEntry_capacitiesKept i s
        · exact setEntry_capacitiesKept s i _

theorem mergeAt_capacitiesKept (s : State) (i : Nat) : CapacitiesKept s (mergeAt s i) := by
  unfold mergeAt
  split
  · split
    · split
      · split
        · exact freeEntry_capacitiesKept _ s
        · exact .refl s
      · exact .refl s
    · exact .refl s
  · exact .refl s

theorem makeRoom_capacitiesKept {made : List Nat} {s s' : State} {i : Nat} (h : makeRoom made s = some (i, s')) :
    CapacitiesKept s s' := by
  unfold makeRoom at h
  split at h
  · cases h
    exact .refl s
  · obtain ⟨j, -, hj⟩ := Option.map_eq_some_iff.mp h
    cases hj
    exact freeEntry_capacitiesKept _ s

theorem placeEntry_capacitiesKept (i : Nat) (make : Byte → Word32 → Entry) (s : State) :
    CapacitiesKept s (placeEntry i make s) := .of_sizes rfl rfl (.of_eq List.length_set rfl rfl)

theorem createFrom_capacitiesKept (mount : Int) (acc : List Nat × State) (c : Candidate) :
    CapacitiesKept acc.2 (createFrom mount acc c).2 := by
  unfold createFrom
  dsimp only
  split
  · split
    · rename_i i s' h
      exact (makeRoom_capacitiesKept h).trans (placeEntry_capacitiesKept _ _ _)
    · exact raise_capacitiesKept _ _
  · exact .refl _

theorem createEntries_capacitiesKept (mount : Int) (row : RowInProcess) (taken : List Pairing) (s : State) :
    CapacitiesKept s (createEntries mount row taken s) := by
  unfold createEntries
  split
  · exact foldl_related (fun a b : List Nat × State => CapacitiesKept a.2 b.2) (fun a => .refl a.2)
      (fun _ _ _ => .trans) _ (createFrom_capacitiesKept mount) _ ([], s)
  · exact .refl s

theorem handOver_capacitiesKept (i : Nat) (e : Entry) (target : Nat) (s : State) :
    CapacitiesKept s (handOver i e target s) := by
  unfold handOver
  refine .trans (.trans ?_ (setEntry_capacitiesKept _ _ _)) (stopLanes_capacitiesKept _ _ _)
  exact .of_link (queueHandover_bounded _) (by simp) (by simp) (by simp) (by simp)

theorem ownershipTest_capacitiesKept (frame : Word32) (s : State) (i : Nat) :
    CapacitiesKept s (ownershipTest frame s i) := by
  unfold ownershipTest
  split
  · exact .refl s
  · rename_i e he
    have howned : CapacitiesKept s (match handoverTarget s.tt.zone e.x with
        | some target => handOver i e target s
        | none => s) := by
      split
      · exact handOver_capacitiesKept i e _ s
      · exact .refl s
    split
    · exact howned
    · exact howned
    · split
      · exact (setEntry_capacitiesKept s i _).trans (offerLane_capacitiesKept _ _ _)
      · exact .refl s
    · exact .refl s
    · exact .refl s

theorem handOnHit_capacitiesKept (cfg : Startup) (row : RowInProcess) (tag : Byte) (c : Candidate) (shared : Bool)
    (s : State) : CapacitiesKept s (handOnHit cfg row tag c shared s) := .of_sizes rfl rfl (mapLanes_sizesKept s _)

theorem handOn_capacitiesKept (cfg : Startup) (row : RowInProcess) (taken : List Pairing) (before : TrackTable)
    (s : State) (i : Nat) : CapacitiesKept s (handOn cfg row taken before s i) := by
  have hhit (c : Option Candidate) (tag : Byte) (shared : Bool) :
      CapacitiesKept s ((c.map fun cand => handOnHit cfg row tag cand shared s).getD s) := by
    cases c with
    | none => exact .refl s
    | some c => exact handOnHit_capacitiesKept cfg row tag c shared s
  unfold handOn
  split
  · split
    · split
      · exact hhit _ _ _
      · exact hhit _ _ _
      · exact .refl s
    · exact .refl s
  · exact .refl s

theorem treatRow_capacitiesKept (cfg : Startup) (row : RowInProcess) (s : State) :
    CapacitiesKept s (treatRow cfg row s) :=
  (foldl_capacitiesKept _ (updateEntry_capacitiesKept row _) _ s).trans
    ((foldl_capacitiesKept _ mergeAt_capacitiesKept _ _).trans
      ((createEntries_capacitiesKept cfg.mountOffset row _ _).trans
        ((foldl_capacitiesKept _ (ownershipTest_capacitiesKept row.frame) _ _).trans
          (foldl_capacitiesKept _ (handOn_capacitiesKept cfg row _ s.tt) _ _))))

/-! ### Rows -/

/-- A change of the Front End that keeps its lists within their capacities. -/
theorem setFe_capacitiesKept {s : State} {f : FrontEnd} (h : s.fe.Bounded → f.Bounded) :
    CapacitiesKept s (s.setFe f) := ⟨id, h, .of_eq rfl rfl rfl⟩

/-- An exposed frame joins the list, or pushes the oldest out (R36). -/
theorem expectRow_capacitiesKept (cfg : Startup) (r : ExpectedRow) (s : State) :
    CapacitiesKept s (expectRow cfg r s) := by
  unfold expectRow
  split
  · rename_i hroom
    refine setFe_capacitiesKept fun h => ⟨?_, h.queue⟩
    rw [List.length_append, List.length_singleton]
    exact hroom
  · split
    · exact setFe_capacitiesKept fun h => ⟨Nat.le_of_ble_eq_true rfl, h.queue⟩
    · rename_i oldest rest hl
      refine .trans (.trans ?_ (raise_capacitiesKept _ _)) (treatAbsent_capacitiesKept cfg _ _)
      refine setFe_capacitiesKept fun h => ⟨?_, h.queue⟩
      have := h.expected
      rw [hl] at this
      simpa using this

theorem takeNextRow_capacitiesKept (s : State) : CapacitiesKept s (takeNextRow s) := by
  unfold takeNextRow
  split
  · rename_i r rest hp hq
    refine setFe_capacitiesKept fun h => ⟨h.expected, ?_⟩
    have := h.queue
    rw [hq, List.length_cons] at this
    exact Nat.le_of_succ_le this
  · exact .refl s

theorem olderAbsent_capacitiesKept (cfg : Startup) (rest : List ExpectedRow) :
    ∀ (older : List ExpectedRow) (s : State), (older ++ rest).length ≤ 2 →
      CapacitiesKept s (olderAbsent cfg rest older s)
  | [], s, _ => .refl s
  | e :: older, s, hl => by
    have hl' : (older ++ rest).length ≤ 2 := Nat.le_of_succ_le hl
    refine .trans (.trans ?_ (treatAbsent_capacitiesKept cfg _ e.frame))
      (olderAbsent_capacitiesKept cfg rest older _ hl')
    exact setFe_capacitiesKept fun h => ⟨hl', h.queue⟩

theorem joinQueue_capacitiesKept (cfg : Startup) (m : ExpectedRow) (c : List RowCell) (older newer : List ExpectedRow)
    (s : State) (hl : (older ++ m :: newer).length ≤ 2) : CapacitiesKept s (joinQueue cfg m c older newer s) := by
  have hnewer : newer.length ≤ 2 := by
    rw [List.length_append, List.length_cons] at hl
    omega
  unfold joinQueue
  dsimp only
  refine (olderAbsent_capacitiesKept cfg (m :: newer) older s hl).trans ?_
  generalize olderAbsent cfg (m :: newer) older s = u
  have hleft : CapacitiesKept u (u.setFe { u.fe with expected := newer }) :=
    setFe_capacitiesKept fun h => ⟨hnewer, h.queue⟩
  split
  · rename_i hroom
    refine hleft.trans (setFe_capacitiesKept fun h => ⟨h.expected, ?_⟩)
    rw [List.length_append, List.length_singleton]
    exact hroom
  · exact hleft.trans ((raise_capacitiesKept _ _).trans (treatAbsent_capacitiesKept cfg _ _))

/-- A match splits the list. -/
theorem splitAtMatch_eq {row : SensorRow} : ∀ {l older newer : List ExpectedRow} {m : ExpectedRow},
    splitAtMatch row l = some (older, m, newer) → l = older ++ m :: newer
  | [], _, _, _, h => by cases h
  | e :: es, older, newer, m, h => by
    unfold splitAtMatch at h
    split at h
    · rename_i o m' n hs
      cases h
      rw [splitAtMatch_eq hs]
      rfl
    · split at h
      · cases h
        rfl
      · cases h

theorem matchRow_capacitiesKept (cfg : Startup) (row : SensorRow) (s : State) (hl : s.fe.expected.length ≤ 2) :
    CapacitiesKept s (matchRow cfg row s) := by
  unfold matchRow
  split
  · exact raise_capacitiesKept s _
  · rename_i older m newer h
    rw [splitAtMatch_eq h] at hl
    exact (joinQueue_capacitiesKept cfg m _ older newer s hl).trans (takeNextRow_capacitiesKept _)

theorem interference_capacitiesKept (cfg : Startup) (s : State) : CapacitiesKept s (interference cfg s) := by
  unfold interference
  dsimp only
  split
  · refine .trans ?_ (raise_capacitiesKept _ _)
    exact .of_sizes rfl rfl (.of_eq rfl rfl rfl)
  · unfold answerAmbient
    refine .trans ?_ (raise_capacitiesKept _ _)
    refine .of_sizes rfl rfl ⟨rfl, rfl, rfl, ?_⟩
    unfold StripStore.boundLanes
    cases s.ss.openBlock <;> exact id

theorem takeStrayCount_capacitiesKept (cfg : Startup) (n : Nat) (s : State) :
    CapacitiesKept s (takeStrayCount cfg n s) := by
  have hset (k : Nat) : CapacitiesKept s (s.setEc { s.ec with strayStreak := k }) :=
    .of_sizes rfl rfl (.of_eq rfl rfl rfl)
  unfold takeStrayCount
  split
  · exact hset 0
  · split
    · exact hset 1
    · exact (hset 0).trans (interference_capacitiesKept cfg _)

theorem finishDarkRow_capacitiesKept (cfg : Startup) (row : RowInProcess) (s : State) :
    CapacitiesKept s (finishDarkRow cfg row s) := by
  rw [finishDarkRow_eq]
  refine .trans (.trans (.trans ?_ (naturalEnd_capacitiesKept cfg _ _)) (settleReady_capacitiesKept cfg _))
    (takeNextRow_capacitiesKept _)
  refine .trans (takeStrayCount_capacitiesKept cfg (strayCount cfg row.cells) s) ?_
  exact setFe_capacitiesKept fun h => ⟨h.expected, h.queue⟩

theorem associateRow_capacitiesKept (cfg : Startup) (row : RowInProcess) (s : State) :
    CapacitiesKept s (associateRow cfg row s) := by
  unfold associateRow
  dsimp only
  refine .trans (.trans ?_ (raiseIf_capacitiesKept _ _ _)) (treatRow_capacitiesKept cfg _ _)
  exact setFe_capacitiesKept fun h => ⟨h.expected, h.queue⟩

/-! ### Ticks, exposures, banks and telegrams -/

theorem tickOperating_capacitiesKept (d : Direction) (cfg : Startup) (s : State) :
    CapacitiesKept s (tickOperating d cfg s) := by
  have hcount : CapacitiesKept s (s.setDu (countTick d s.du)) := .of_sizes rfl rfl (.of_eq rfl rfl rfl)
  unfold tickOperating
  dsimp only
  split
  · exact hcount.trans (.of_sizes rfl rfl (.of_eq rfl rfl rfl))
  · have hreversal (u : State) : CapacitiesKept u (reversal cfg u) := by
      refine .trans ?_ (closeBlock_capacitiesKept cfg _ _)
      exact .of_sizes rfl rfl (.of_eq (List.length_map _) rfl rfl)
    exact (hcount.trans (hreversal _)).trans (.of_sizes rfl rfl (.of_eq rfl rfl rfl))

theorem beginExposure_capacitiesKept (cfg : Startup) (c : SlotCycle) (s : State) :
    CapacitiesKept s (beginExposure cfg c s) := by
  unfold beginExposure
  dsimp only
  refine .trans ?_ (expectRow_capacitiesKept cfg _ _)
  exact .of_sizes rfl rfl (.of_eq rfl rfl rfl)

theorem completeBank_capacitiesKept (cfg : Startup) (k : Nat) (b : Block) (s : State) :
    CapacitiesKept s (completeBank cfg k b s) := by
  have hfree := (reportBlock_capacitiesKept cfg b (resultOf cfg b) s).trans (setBank_capacitiesKept _ k .free none)
  unfold completeBank
  dsimp only
  split
  · exact hfree.trans (startCompute_capacitiesKept _ _ _)
  · exact hfree

theorem takeRun_capacitiesKept (cfg : Startup) (run : Word16) (st : RunState) (cls : Nat) (s : State) :
    CapacitiesKept s (takeRun cfg run st cls s) := by
  have hset : CapacitiesKept s (s.setSrc { s.src with runState := st, runNumber := run, pendingClass := cls }) :=
    .of_sizes rfl rfl (.of_eq rfl rfl rfl)
  unfold takeRun
  dsimp only
  split
  · split
    · exact hset.trans (closeBlock_capacitiesKept cfg _ _)
    · exact hset
  · exact hset

theorem judgeRun_capacitiesKept (cfg : Startup) (t : RxTelegram) (s : State) :
    CapacitiesKept s (judgeRun cfg t s) := by
  unfold judgeRun
  dsimp only
  split
  · split
    · exact takeRun_capacitiesKept cfg _ _ _ s
    · exact .refl s
  · exact .refl s

theorem takeAttitude_capacitiesKept (cfg : Startup) (t : RxTelegram) (s : State) :
    CapacitiesKept s (takeAttitude cfg t s) := .of_sizes rfl rfl (.of_eq rfl rfl rfl)

theorem writeNeighbour_capacitiesKept (cfg : Startup) (t : RxTelegram) (s : State) :
    CapacitiesKept s (writeNeighbour cfg t s) := setNeighbour_capacitiesKept s _ _

theorem copyOrigin_length (slot : Nat) (o : Origin) (b : Block) :
    (copyOrigin slot o b).lanes.length = b.lanes.length := List.length_map _

theorem adoptInPlace_capacitiesKept (i : Nat) (e : Entry) (o : Origin) (rate : Int) (s : State) :
    CapacitiesKept s (adoptInPlace i e o rate s) := by
  have hset : CapacitiesKept s (s.setEntry i (some (e.adopt o rate))) := setEntry_capacitiesKept s i _
  have howned : CapacitiesKept s (match e.lane with
      | some slot => (s.setEntry i (some (e.adopt o rate))).setSs
          { s.ss with openBlock := s.ss.openBlock.map (copyOrigin slot o) }
      | none => s.setEntry i (some (e.adopt o rate))) := by
    split
    · refine hset.trans (.of_sizes rfl rfl ⟨rfl, rfl, rfl, ?_⟩)
      unfold StripStore.boundLanes
      rw [setEntry_ss, State.setSs_ss]
      cases s.ss.openBlock with
      | none => exact id
      | some b => exact (copyOrigin_length _ o b).le.trans
    · exact hset
  unfold adoptInPlace
  dsimp only
  split
  · exact howned
  · exact howned
  all_goals exact hset.trans (offerLane_capacitiesKept _ _ _)

theorem adoptNew_capacitiesKept (h : Handover) (o : Origin) (s : State) : CapacitiesKept s (adoptNew h o s) := by
  unfold adoptNew
  split
  · rename_i i u hu
    exact (makeRoom_capacitiesKept hu).trans
      ((placeEntry_capacitiesKept i _ u).trans (offerLane_capacitiesKept _ _ _))
  · exact raise_capacitiesKept s _

theorem takeHandover_capacitiesKept (cfg : Startup) (t : RxTelegram) (s : State) :
    CapacitiesKept s (takeHandover cfg t s) := by
  unfold takeHandover
  dsimp only
  split
  · split
    · exact adoptInPlace_capacitiesKept _ _ _ _ s
    · exact adoptNew_capacitiesKept _ _ s
  · exact .refl s

theorem checkDuplicate_capacitiesKept (cfg : Startup) (t : RxTelegram) (s : State) :
    CapacitiesKept s (checkDuplicate cfg t s) := by
  unfold checkDuplicate
  dsimp only
  split
  · split
    · split
      · exact (setEntry_capacitiesKept s _ _).trans (stopLanes_capacitiesKept _ _ _)
      · exact .refl s
    · exact .refl s
  · exact .refl s

theorem takeSighting_capacitiesKept (cfg : Startup) (t : RxTelegram) (s : State) :
    CapacitiesKept s (takeSighting cfg t s) := by
  unfold takeSighting
  split
  · split
    · split
      · exact freeEntry_capacitiesKept _ s
      · exact .refl s
    · exact checkDuplicate_capacitiesKept _ _ s
  · exact checkDuplicate_capacitiesKept _ _ s

/-! ### The line -/

/-- A change of the receive side leaves the queue as it is. -/
theorem startTransmission_bounded {l : LinkController} (station : Nat) (h : l.Bounded) :
    (startTransmission station l).Bounded := by
  unfold startTransmission
  split
  · rename_i t q hq
    split
    · obtain ⟨hqueue, hone, hbuf, -⟩ := h
      exact ⟨hqueue, hone, hbuf, by simp [hq]⟩
    · exact h
  · exact h

/-- A CONTENDING LC that stops or goes on to send has a telegram queued still (R174). -/
theorem contending_bounded {l m : LinkController} (h : l.Bounded) (hd : l.tx ≠ .idle) (hm : m.tx ≠ .idle)
    (hq : m.txQueue = l.txQueue) (hb : m.rxBuffers = l.rxBuffers) : m.Bounded := by
  obtain ⟨hqueue, hone, hbuf, hidle⟩ := h
  refine ⟨hq ▸ hqueue, by unfold LinkController.headstates at *; rw [hq]; exact hone, hb ▸ hbuf, ?_⟩
  rw [hq, ← hidle]
  exact ⟨fun h => absurd h hm, fun h => absurd h hd⟩

theorem drives_not_idle {l : LinkController} (h : l.drives = true) : l.tx ≠ .idle := by
  intro hi
  simp [LinkController.drives, hi] at h

theorem storeTelegram_bounded (t : RxTelegram) {l : LinkController} (h : l.Bounded) :
    (storeTelegram t l).Bounded := by
  unfold storeTelegram
  split
  · rename_i hroom
    refine ⟨h.queue, h.oneHeadstate, ?_, h.idleIff⟩
    rw [List.length_append, List.length_singleton]
    exact hroom
  · exact h.congr rfl rfl rfl

theorem endReception_bounded (levels : List Level) {l : LinkController} (h : l.Bounded) :
    (endReception levels l).Bounded := by
  unfold endReception
  split
  · exact h.congr rfl rfl rfl
  · exact storeTelegram_bounded _ (h.congr rfl rfl rfl)

theorem freeBuffer_capacitiesKept (s : State) : CapacitiesKept s (freeBuffer s) := by
  refine .of_link (fun h => ⟨h.queue, h.oneHeadstate, ?_, h.idleIff⟩) rfl rfl rfl rfl
  show s.lc.rxBuffers.tail.length ≤ _
  rw [List.length_tail]
  exact (Nat.sub_le _ _).trans h.buffers

theorem onLine_capacitiesKept {act : LinkController → LinkController} (h : ∀ l, l.Bounded → (act l).Bounded)
    (s : State) : CapacitiesKept s (onLine act s) := by
  unfold onLine
  split
  · exact .refl s
  · exact .of_link (h s.lc) rfl rfl rfl rfl

theorem loseTransmission_capacitiesKept (s : State) : CapacitiesKept s (loseTransmission s) := by
  refine .of_link (fun h => ?_) (by simp [loseTransmission]) (by simp [loseTransmission])
    (by simp [loseTransmission]) (by simp [loseTransmission])
  have hreturn : (returnAt 0 s).lc.Bounded := by
    unfold returnAt
    split
    · exact h.congr rfl rfl rfl
    · exact h
  obtain ⟨hleft, hsends⟩ := leave_bounded hreturn .waitIdle
  exact queueWaitingHeadstate_bounded (hleft.congr rfl rfl rfl) hsends

theorem completeTransmission_capacitiesKept (s : State) : CapacitiesKept s (completeTransmission s) := by
  refine .of_link (fun h => ?_) (by simp [completeTransmission]) (by simp [completeTransmission])
    (by simp [completeTransmission]) (by simp [completeTransmission])
  obtain ⟨hleft, hsends⟩ := leave_bounded h .ready
  exact queueWaitingHeadstate_bounded (s := s.setLc (s.lc.leave .ready)) hleft hsends

/-! ### The commands -/

theorem setSrc_capacitiesKept (s : State) (u : StartupControl) : CapacitiesKept s (s.setSrc u) :=
  .of_sizes rfl rfl (.of_eq rfl rfl rfl)

theorem endLoading_capacitiesKept (block : List Byte) (s : State) : CapacitiesKept s (endLoading block s) := by
  unfold endLoading
  split
  · refine .trans (.trans (.trans ?_ (raiseIf_capacitiesKept _ _ _)) (raiseIf_capacitiesKept _ _ _))
      (headstateDue_capacitiesKept _)
    exact .of_sizes rfl rfl (.of_eq rfl rfl rfl)
  · exact (setSrc_capacitiesKept s _).trans (headstateDue_capacitiesKept _)

theorem inOperating_capacitiesKept {act : Startup → State → State} {s : State}
    (h : ∀ cfg, CapacitiesKept s (act cfg s)) : CapacitiesKept s (inOperating act s) := by
  unfold inOperating
  split
  · exact h _
  · exact .refl s

theorem takeTelegram_capacitiesKept {k : Kind} {act : Startup → RxTelegram → State → State}
    (h : ∀ cfg t s, CapacitiesKept s (act cfg t s)) (s : State) : CapacitiesKept s (takeTelegram k act s) := by
  unfold takeTelegram
  split
  · split
    · exact (freeBuffer_capacitiesKept s).trans (h _ _ _)
    · exact .refl s
  · exact .refl s

/-- What an action of an OPERATING part keeps, on what has been caught up. -/
theorem caughtUp_capacitiesKept {act : Startup → State → State} (h : ∀ cfg s, CapacitiesKept s (act cfg s))
    (s : State) : CapacitiesKept s (inOperating act (catchUp s)) :=
  (catchUp_capacitiesKept s).trans (inOperating_capacitiesKept fun cfg => h cfg _)

/-- What an action of a due event keeps, on the trigger that has been taken. -/
theorem triggered_capacitiesKept {act : Startup → State → State} (h : ∀ cfg s, CapacitiesKept s (act cfg s))
    (s : State) : CapacitiesKept s (inOperating act (catchTrigger s)) :=
  (catchTrigger_capacitiesKept s).trans (inOperating_capacitiesKept fun cfg => h cfg _)

theorem caughtUp_takeTelegram_capacitiesKept {k : Kind} {act : Startup → RxTelegram → State → State}
    (h : ∀ cfg t s, CapacitiesKept s (act cfg t s)) (s : State) :
    CapacitiesKept s (takeTelegram k act (catchUp s)) :=
  (catchUp_capacitiesKept s).trans (takeTelegram_capacitiesKept h _)

theorem caughtUp_onLine_capacitiesKept {act : LinkController → LinkController}
    (h : ∀ l, l.Bounded → (act l).Bounded) (s : State) : CapacitiesKept s (onLine act (catchUp s)) :=
  (catchUp_capacitiesKept s).trans (onLine_capacitiesKept h _)

theorem execLoading_capacitiesKept {c : Instr} {s t : State} (h : exec c s = .next t)
    (hc : (∃ straps, c = .resetEnd straps) ∨ c = .configReadStart ∨ (∃ levels, c = .configReadDone levels)
      ∨ c = .loadingEnd ∨ c = .headstateTimer) : CapacitiesKept s t := by
  refine (catchUp_capacitiesKept s).trans ?_
  rcases hc with ⟨straps, rfl⟩ | rfl | ⟨levels, rfl⟩ | rfl | rfl
  · simp only [exec, execResetEnd] at h
    split at h <;> cases h
    · exact setSrc_capacitiesKept _ _
    · exact .refl _
  · simp only [exec, execConfigReadStart] at h
    split at h <;> cases h
    · exact setSrc_capacitiesKept _ _
    · exact .refl _
  · simp only [exec, execConfigReadDone] at h
    split at h <;> cases h
    · exact setSrc_capacitiesKept _ _
    · exact .refl _
  · simp only [exec, execLoadingEnd] at h
    split at h <;> cases h
    · exact endLoading_capacitiesKept _ _
    · exact .refl _
  · simp only [exec, execHeadstateTimer] at h
    split at h <;> cases h
    · exact headstateDue_capacitiesKept _
    · exact .refl _

end Sys2Proof.Machine
end

section
/-! SUPPORT. The capacities over every command. -/

namespace Sys2Proof.Machine

theorem execSlotCycle_capacitiesKept {c : Instr} {s t : State} (h : exec c s = .next t)
    (hc : c = .slotCycleEnd ∨ c = .exposeRise ∨ c = .exposeFall) : CapacitiesKept s t := by
  rcases hc with rfl | rfl | rfl <;> cases h <;> refine caughtUp_capacitiesKept (fun cfg s => ?_) s
  · split
    · split
      · exact .of_sizes rfl rfl (.of_eq rfl rfl rfl)
      · exact .refl s
    · exact .refl s
  · split
    · split
      · exact beginExposure_capacitiesKept cfg _ s
      · exact .refl s
    · exact .refl s
  · split
    · split
      · exact .of_sizes rfl rfl (.of_eq rfl rfl rfl)
      · exact .refl s
    · exact .refl s

theorem execTravel_capacitiesKept {c : Instr} {s t : State} (h : exec c s = .next t)
    (hc : (∃ dir, c = .tick dir) ∨ c = .rateWindowEnd ∨ c = .pole) : CapacitiesKept s t := by
  refine (catchUp_capacitiesKept s).trans ?_
  rcases hc with ⟨dir, rfl⟩ | rfl | rfl
  · simp only [exec, execTick] at h
    split at h <;> cases h
    · exact .refl _
    · exact tickOperating_capacitiesKept _ _ _
    · exact .of_sizes rfl rfl (.of_eq rfl rfl rfl)
  · simp only [exec, execRateWindowEnd] at h
    split at h <;> cases h
    · exact .refl _
    · exact .of_sizes rfl rfl (.of_eq rfl rfl rfl)
  · cases h
    refine inOperating_capacitiesKept fun cfg => ?_
    dsimp only
    have hmark (d : DistanceUnit) : CapacitiesKept (catchUp s) ((catchUp s).setDu d) :=
      .of_sizes rfl rfl (.of_eq rfl rfl rfl)
    split
    · exact (hmark _).trans (closeBlock_capacitiesKept cfg _ _)
    · exact hmark _

theorem execRowArrival_capacitiesKept {nibbles : List Nibble} {s t : State} (hs : s.fe.Bounded)
    (h : execRowArrival nibbles s = .next t) : CapacitiesKept s t := by
  have hu : (catchUp s).fe.Bounded := by rw [catchUp_fe]; exact hs
  refine (catchUp_capacitiesKept s).trans ?_
  unfold execRowArrival at h
  dsimp only at h
  split at h <;> cases h
  · have hseen : CapacitiesKept (catchUp s) ((catchUp s).setFe { (catchUp s).fe with receiving := false }) :=
      setFe_capacitiesKept fun h => ⟨h.expected, h.queue⟩
    refine hseen.trans (inOperating_capacitiesKept fun cfg => ?_)
    split
    · exact raise_capacitiesKept _ _
    · exact matchRow_capacitiesKept cfg _ _ hu.expected
  · exact .refl _

theorem execRowProcessing_capacitiesKept {c : Instr} {s t : State} (h : exec c s = .next t)
    (hc : c = .darkRowDone ∨ c = .rowAssociation ∨ c = .litRowEnd ∨ c = .wearComplete) : CapacitiesKept s t := by
  rcases hc with rfl | rfl | rfl | rfl <;> cases h <;> refine caughtUp_capacitiesKept (fun cfg s => ?_) s
  · split
    · split
      · exact finishDarkRow_capacitiesKept cfg _ s
      · exact .refl s
    · exact .refl s
  · split
    · split
      · exact associateRow_capacitiesKept cfg _ s
      · exact .refl s
    · exact .refl s
  · split
    · split
      · refine .trans (.trans ?_ (settleReady_capacitiesKept cfg _)) (takeNextRow_capacitiesKept _)
        exact setFe_capacitiesKept fun h => ⟨h.expected, h.queue⟩
      · exact .refl s
    · exact .refl s
  · split
    · exact completeBank_capacitiesKept cfg _ _ s
    · exact .refl s

theorem execTransmission_capacitiesKept {c : Instr} {s t : State} (h : exec c s = .next t)
    (hc : c = .transmitError ∨ c = .transmitComplete ∨ c = .telegramDiscard ∨ c = .srfRise) :
    CapacitiesKept s t := by
  refine (catchUp_capacitiesKept s).trans ?_
  rcases hc with rfl | rfl | rfl | rfl
  · cases h
    split
    · exact loseTransmission_capacitiesKept _
    · exact .refl _
  · cases h
    split
    · exact completeTransmission_capacitiesKept _
    · exact .refl _
  · simp only [exec, execTelegramDiscard] at h
    split at h <;> cases h
    · exact (freeBuffer_capacitiesKept _).trans (raise_capacitiesKept _ _)
    · exact freeBuffer_capacitiesKept _
    · exact .refl _
  · simp only [exec, execSrfRise] at h
    split at h <;> cases h
    · exact .refl _
    · exact setFe_capacitiesKept fun h => ⟨h.expected, h.queue⟩

theorem execLine_capacitiesKept {c : Instr} {s t : State} (h : exec c s = .next t)
    (hc : c = .arbitrationLost ∨ c = .arbitrationWon ∨ c = .lineIdle ∨ c = .startBit ∨ c = .transmitStart
      ∨ ∃ levels, c = .telegramReceived levels) : CapacitiesKept s t := by
  rcases hc with rfl | rfl | rfl | rfl | rfl | ⟨levels, rfl⟩ <;> cases h <;>
    refine caughtUp_onLine_capacitiesKept (fun l hl => ?_) s
  · split
    · rename_i hd
      exact contending_bounded hl (drives_not_idle hd) (by simp) rfl rfl
    · exact hl
  · split
    · rename_i hd
      exact contending_bounded hl (drives_not_idle hd) (by simp) rfl rfl
    · exact hl
  · split
    · exact hl.congr rfl rfl rfl
    · exact hl
  · split
    · exact hl.congr rfl rfl rfl
    · exact hl
  · exact startTransmission_bounded _ hl
  · split
    · exact endReception_bounded levels hl
    · exact hl

/-- Every command but RESET, which leaves the capacities as they are at reset. -/
theorem exec_capacitiesKept {c : Instr} {s t : State} (hc : c ≠ .reset) (hs : s.fe.Bounded)
    (h : exec c s = .next t) : CapacitiesKept s t := by
  cases c with
  | reset => exact absurd rfl hc
  | resetEnd _ | configReadStart | configReadDone _ | loadingEnd | headstateTimer =>
    exact execLoading_capacitiesKept h (by simp)
  | tick _ | rateWindowEnd | pole => exact execTravel_capacitiesKept h (by simp)
  | slotCycleEnd | exposeRise | exposeFall => exact execSlotCycle_capacitiesKept h (by simp)
  | rowArrival nibbles => exact execRowArrival_capacitiesKept hs h
  | darkRowDone | rowAssociation | litRowEnd | wearComplete => exact execRowProcessing_capacitiesKept h (by simp)
  | transmitError | transmitComplete | telegramDiscard | srfRise => exact execTransmission_capacitiesKept h (by simp)
  | arbitrationLost | arbitrationWon | lineIdle | startBit | transmitStart | telegramReceived _ =>
    exact execLine_capacitiesKept h (by simp)
  | frameTrigger => cases h; exact catchTrigger_capacitiesKept s
  | yieldReclaim i => cases h; exact triggered_capacitiesKept (takeReclaim_capacitiesKept · · i) s
  | neighbourAbsent n => cases h; exact triggered_capacitiesKept (takeAbsent_capacitiesKept · · n) s
  | notTakingExpire n => cases h; exact triggered_capacitiesKept (takeExpire_capacitiesKept · · n) s
  | settleEnd => cases h; exact triggered_capacitiesKept (fun _ => takeSettleEnd_capacitiesKept) s
  | attitudeHeld => cases h; exact triggered_capacitiesKept (fun _ => takeHeld_capacitiesKept) s
  | attitudeLost => cases h; exact triggered_capacitiesKept (fun _ => takeLost_capacitiesKept) s
  | runTelegram => cases h; exact caughtUp_takeTelegram_capacitiesKept judgeRun_capacitiesKept s
  | attitudeTelegram => cases h; exact caughtUp_takeTelegram_capacitiesKept takeAttitude_capacitiesKept s
  | headstateTelegram => cases h; exact caughtUp_takeTelegram_capacitiesKept writeNeighbour_capacitiesKept s
  | adoption => cases h; exact caughtUp_takeTelegram_capacitiesKept takeHandover_capacitiesKept s
  | sightingTelegram => cases h; exact caughtUp_takeTelegram_capacitiesKept takeSighting_capacitiesKept s

/-- The capacities hold right after RESET. -/
theorem reset_capacities (p : List Instr) :
    (State.reset.setPending p).lc.Bounded ∧ (State.reset.setPending p).fe.Bounded
      ∧ (State.reset.setPending p).Sized :=
  ⟨⟨Nat.zero_le _, Nat.zero_le _, Nat.zero_le _, iff_of_true rfl rfl⟩, ⟨Nat.zero_le _, Nat.zero_le _⟩, ⟨rfl, rfl, rfl, fun _ h => by cases h⟩⟩

/-- Settles O55: a step runs the front command, RESET brings the sizes of reset, and every other command keeps each
capacity. -/
theorem stepKeepsCapacities : Obligations.StepKeepsCapacities := by
  intro s t hlc hfe hsz h
  unfold step at h
  split at h
  · cases h
    exact ⟨hlc, hfe, hsz⟩
  · rename_i c rest _
    by_cases hc : c = .reset
    · subst hc
      cases h
      exact reset_capacities rest
    · have hk : CapacitiesKept (s.setPending rest) t := exec_capacitiesKept hc hfe h
      exact ⟨hk.link hlc, hk.front hfe, hk.sized ⟨hsz.entries, hsz.records, hsz.banks, hsz.lanes⟩⟩

end Sys2Proof.Machine
end

section
/-! SUPPORT. Rows on the sensor port: discarded, matched and queued, pushed out, and taken into process. -/

namespace Sys2Proof.Machine

/-! ### Arrival -/

/-- The rise of SRF in an OPERATING part that owes nothing (R58). -/
theorem exec_srfRise {cfg : Startup} {s : State} (hq : Quiet cfg s) :
    exec .srfRise s = .next { s with fe := { s.fe with receiving := true } } := by
  simp only [exec, execSrfRise, catchUp_of_quiet hq, hq.1]
  rfl

/-- The Front End no longer counts the cells of a row (R35). -/
def State.rowSeen (s : State) : State := s.setFe { s.fe with receiving := false }

/-- ROW_ARRIVAL of a row of 2048 cells whose rise was seen (R35, R58). -/
theorem exec_rowArrival {cfg : Startup} {s : State} {nibbles : List Nibble} {row : SensorRow} (hq : Quiet cfg s)
    (hr : s.fe.receiving = true) (hrow : sensorRowOf nibbles = some row) :
    exec (.rowArrival nibbles) s = .next (matchRow cfg row s.rowSeen) := by
  simp only [exec, execRowArrival, catchUp_of_quiet hq, hr, if_true]
  refine (congrArg _ (inOperating_operating (s := s.rowSeen) hq.1)).trans ?_
  simp only [hrow]

/-- That of a row of another length (R35). -/
theorem exec_rowArrival_malformed {cfg : Startup} {s : State} {nibbles : List Nibble} (hq : Quiet cfg s)
    (hr : s.fe.receiving = true) (hlen : nibbles.length ≠ 12291) :
    exec (.rowArrival nibbles) s = .next (s.rowSeen.raise .sensorFault) := by
  have hrow : sensorRowOf nibbles = none := if_neg hlen
  simp only [exec, execRowArrival, catchUp_of_quiet hq, hr, if_true]
  refine (congrArg _ (inOperating_operating (s := s.rowSeen) hq.1)).trans ?_
  simp only [hrow]

/-- Settles O23: the rise is seen, and a malformed or unmatched row is discarded. -/
theorem badRowsRaiseSensorFault : Obligations.BadRowsRaiseSensorFault := by
  intro cfg s hq
  refine ⟨exec_srfRise hq, fun nibbles hr hbad => ?_⟩
  rcases hbad with hlen | ⟨row, hrow, hnone⟩
  · rw [exec_rowArrival_malformed hq hr hlen]
    rfl
  · have hsplit : splitAtMatch row s.rowSeen.fe.expected = none :=
      splitAtMatch_none row _ fun e he => by rw [rowMatches_iff]; exact hnone e he
    rw [exec_rowArrival hq hr hrow]
    simp only [matchRow, hsplit]
    rfl

/-! ### Rows taken into process -/

/-- What the Front End holds in process right after it has taken the head of the queue, as Safety.lean gives it (R42,
R56). -/
theorem takeNextRow_rowTaken {s : State} {r : QueuedRow} {rest : List QueuedRow} (h : s.fe.inProcess = none)
    (hq : s.fe.queue = r :: rest) :
    (takeNextRow s).fe = { s.fe with queue := rest, inProcess := some (rowTaken s.tt r) } := by
  rw [takeNextRow_takes h hq]
  rfl

/-- An idle Front End takes the head of the queue, if there is one (R42). -/
theorem takeNextRow_idle {s : State} (h : s.fe.inProcess = none) :
    (takeNextRow s).fe =
      { s.fe with queue := s.fe.queue.tail, inProcess := s.fe.queue.head?.map (rowTaken s.tt) } := by
  cases hq : s.fe.queue with
  | nil =>
    rw [takeNextRow_empty hq]
    show s.fe = { s.fe with queue := [], inProcess := none }
    rw [← h, ← hq]
  | cons r rest => exact takeNextRow_rowTaken h hq

theorem takeNextRow_absence (s : State) : AbsenceFrame s (takeNextRow s) := by
  unfold takeNextRow
  split
  · exact .setFe s _
  · exact .refl s

/-- Tables that agree but for reported origins and lanes give the same gates. -/
theorem rowTaken_congr {s t : State} (h : AbsenceFrame s t) (r : QueuedRow) : rowTaken t.tt r = rowTaken s.tt r := by
  have hg : t.tt.entries.filterMap (fun p => p.map fun e => Gate.mk e.x e.gate e.seq) =
      s.tt.entries.filterMap (fun p => p.map fun e => Gate.mk e.x e.gate e.seq) := h.gates
  simp only [rowTaken, hg]

/-! ### Matched rows -/

/-- The row is matched to `m` with `older` before it, as O24 has it. -/
theorem matchRow_eq (cfg : Startup) {row : SensorRow} {older newer : List ExpectedRow} {m : ExpectedRow} {s : State}
    (he : s.fe.expected = older ++ m :: newer) (hm : rowMatches row m = true)
    (hn : ∀ e ∈ newer, ¬rowMatches row e = true) :
    matchRow cfg row s = takeNextRow (joinQueue cfg m row.cells older newer s) := by
  unfold matchRow
  rw [he, splitAtMatch_some row older m newer hm hn]

/-- With room in the queue a matched row changes nothing but the Front End besides what the older frames' absence does
(R37, R41). -/
theorem joinQueue_of_room (cfg : Startup) {m : ExpectedRow} {c : List RowCell} {older newer : List ExpectedRow}
    {s : State} (h : s.fe.queue.length < 4) :
    joinQueue cfg m c older newer s =
      { olderAbsent cfg (m :: newer) older s with fe := (joinQueue cfg m c older newer s).fe } := by
  have hq : (olderAbsent cfg (m :: newer) older s).fe.queue.length < Config.frameQueue := by
    rw [olderAbsent_fe]
    exact h
  unfold joinQueue
  dsimp only
  rw [State.setFe_fe, if_pos hq]
  rfl

/-- At a full queue its frame becomes absent besides (R41). -/
theorem joinQueue_of_full (cfg : Startup) {m : ExpectedRow} {c : List RowCell} {older newer : List ExpectedRow}
    {s : State} (h : ¬s.fe.queue.length < 4) :
    joinQueue cfg m c older newer s =
      let w := olderAbsent cfg (m :: newer) older s
      treatAbsent cfg
        { w with
          fe := { w.fe with expected := newer }
          lc := { w.lc with sticky := w.lc.sticky ||| StickyFlag.queueDrop.mask } } m.frame := by
  have hq : ¬(olderAbsent cfg (m :: newer) older s).fe.queue.length < Config.frameQueue := by
    rw [olderAbsent_fe]
    exact h
  unfold joinQueue
  dsimp only
  rw [State.setFe_fe, if_neg hq]
  rfl

/-- Settles O24: the older frames' absence, the row queued, taken or dropped, and the absence of a dropped row. -/
theorem rowArrivalMatchesAndQueues : Obligations.RowArrivalMatchesAndQueues := by
  intro cfg nibbles row older newer m s hq hr hrow he htag hkind hnewer joins
  let u := s.rowSeen
  let j := joinQueue cfg m row.cells older newer u
  have hexec : exec (.rowArrival nibbles) s = .next (takeNextRow j) := by
    rw [exec_rowArrival hq hr hrow, matchRow_eq cfg (s := s.rowSeen) he ((rowMatches_iff row m).mpr ⟨htag, hkind⟩)
      fun e hm => by rw [rowMatches_iff]; exact hnewer e hm]
  have hframe : AbsenceFrame u j := joinQueue_absence cfg m row.cells older newer u
  have hfe : j.fe = { s.fe with
      receiving := false, expected := newer
      queue := if s.fe.queue.length < 4 then s.fe.queue ++ [⟨m.frame, m.cls, row.cells⟩] else s.fe.queue } :=
    joinQueue_fe u cfg m row.cells older newer
  have hflag : ¬joins → StickyFlag.queueDrop.isSetIn j.lc.sticky = true := fun hj => by
    rw [show j = _ from joinQueue_of_full cfg hj]
    exact treatAbsent_sticky cfg _ _ _ (raise_sets _ _)
  refine ⟨takeNextRow j, hexec, ?_, fun p hp hj => ?_, fun hp hempty => ?_, fun p hp hj => ⟨?_, ?_⟩,
    olderAbsent cfg (m :: newer) older u, olderAbsent_inTurn cfg (m :: newer) older u, fun hj => ?_, fun hj => ?_⟩
  · exact (hframe.trans (takeNextRow_absence j)).1
  · rw [takeNextRow_busy (p := p) (by rw [hfe]; exact hp), hfe, if_pos hj]
  · have hidle : j.fe.inProcess = none := by rw [hfe]; exact hp
    have hqueue : j.fe.queue = [⟨m.frame, m.cls, row.cells⟩] := by rw [hfe, hempty]; rfl
    rw [takeNextRow_rowTaken hidle hqueue, rowTaken_congr hframe, hfe]
    simp only [hempty]
    rfl
  · rw [takeNextRow_busy (p := p) (by rw [hfe]; exact hp), hfe, if_neg hj]
  · rw [takeNextRow_lc]
    exact hflag hj
  · rw [takeNextRow_tt, takeNextRow_ss, takeNextRow_lc, show j = _ from joinQueue_of_room cfg hj]
    exact ⟨rfl, rfl, rfl⟩
  · refine ⟨j, takeNextRow_tt j, takeNextRow_ss j, takeNextRow_lc j, ?_⟩
    rw [show j = _ from joinQueue_of_full cfg hj]
    exact treatAbsent_becomesAbsent cfg m.frame _

/-! ### Frames pushed out -/

/-- What the third exposed frame in the list does before the oldest becomes absent (R9 to R11, R36). -/
def exposedThird (c : SlotCycle) (b : ExpectedRow) (s : State) : State :=
  { s with
    ec := { s.ec with
      cycle := some { c with phase := .exposing }, expose := .high
      laser := if c.frame.toNat % 8 = 7 then .low else .high }
    fe := { s.fe with expected := [b, ⟨c.frame, frameClass c.frame s.keep⟩] }
    lc := { s.lc with sticky := s.lc.sticky ||| StickyFlag.sensorFault.mask } }

theorem beginExposure_of_full (cfg : Startup) (c : SlotCycle) {a b : ExpectedRow} {s : State}
    (h : s.fe.expected = [a, b]) :
    beginExposure cfg c s = treatAbsent cfg (exposedThird c b s) a.frame := by
  unfold beginExposure expectRow
  simp only [State.setEc_fe, h, isDark_iff]
  rfl

/-- Settles O20: the oldest frame leaves the list and is treated as absent. -/
theorem thirdExposurePushesOldestOut : Obligations.ThirdExposurePushesOldestOut := by
  intro cfg c a b s hq hc hph he
  have hexec : exec .exposeRise s = .next (treatAbsent cfg (exposedThird c b s) a.frame) := by
    refine (congrArg Host.Outcome.next (inOperating_quiet hq)).trans ?_
    simp only [hc, if_pos hph, beginExposure_of_full cfg c he]
  refine ⟨_, hexec, ?_, treatAbsent_sticky cfg _ _ _ (raise_sets s.lc .sensorFault), ?_⟩
  · conv_lhs => rw [(treatAbsent_becomesAbsent cfg a.frame (exposedThird c b s)).1]
    rfl
  · rw [treatAbsent_ec, treatAbsent_fe]
    exact treatAbsent_becomesAbsent cfg a.frame (exposedThird c b s)

/-! ### The end of processing -/

theorem settleReady_absence (cfg : Startup) (s : State) : AbsenceFrame s (settleReady cfg s) := by
  obtain ⟨e, h⟩ := settleReady_frame cfg s
  refine ⟨by rw [e], h.imp fun a b hab => ?_⟩
  cases hab with
  | none => exact .none
  | some h => exact .some (by rw [SameButLane, h.1])

/-- The release of the row in process, as a frame treatment in state `u` then leaves it (R42, R57): the head of the
queue is taken with the gates that the table holds. -/
theorem takeNextRow_released {s u : State} (h : AbsenceFrame s u)
    (hfe : u.fe = { s.fe with background := u.fe.background, inProcess := none }) :
    (takeNextRow u).fe = { s.fe with
      background := u.fe.background, queue := s.fe.queue.tail
      inProcess := s.fe.queue.head?.map (rowTaken s.tt) } := by
  have hr : rowTaken u.tt = rowTaken s.tt := funext (rowTaken_congr h)
  rw [takeNextRow_idle (by rw [hfe]), hr, hfe]

theorem exec_litRowEnd {cfg : Startup} {row : RowInProcess} {s : State} (hq : Quiet cfg s)
    (hp : s.fe.inProcess = some row) (hd : row.cls ≠ .dark) (ha : row.associated = true) :
    exec .litRowEnd s =
      .next (takeNextRow (settleReady cfg { s with fe := { s.fe with inProcess := none } })) := by
  refine (congrArg Host.Outcome.next (inOperating_quiet hq)).trans ?_
  simp only [hp, if_pos (And.intro hd ha)]
  rfl

/-- Settles O31: the row is released, blocks settle, and the next row is taken. -/
theorem litRowEndTakesNext : Obligations.LitRowEndTakesNext := by
  intro cfg row s hq hp hd ha
  let u : State := { s with fe := { s.fe with inProcess := none } }
  have hsettle : AbsenceFrame s (settleReady cfg u) :=
    (AbsenceFrame.setFe s { s.fe with inProcess := none }).trans (settleReady_absence cfg u)
  have hfe := takeNextRow_released hsettle (by rw [settleReady_fe])
  refine ⟨_, exec_litRowEnd hq hp hd ha, ?_, fun hempty => ?_, fun r rest hqueue => ?_, ?_⟩
  · refine (hsettle.trans (takeNextRow_absence _)).1.trans ?_
    rw [hfe, settleReady_fe]
  · rw [hfe, hempty]
    rfl
  · rw [hfe, hqueue]
    rfl
  · exact settlesAfter_congr_after (takeNextRow_ss _) (takeNextRow_lc _) (takeNextRow_tt _)
      (settleReady_settlesAfter cfg u)

/-! ### Dark rows -/

/-- A first stray row, or one that is not stray, changes the stray streak alone (R22, R23). -/
theorem takeStrayCount_first (cfg : Startup) {n : Nat} {s : State} (h : n < 16 ∨ s.ec.strayStreak = 0) :
    takeStrayCount cfg n s =
      { s with ec := { s.ec with strayStreak := if n < 16 then 0 else 1 } } := by
  unfold takeStrayCount
  by_cases hn : n < 16
  · rw [if_pos hn, if_pos hn]
    rfl
  · rw [if_neg hn, if_neg hn, if_pos (h.resolve_left hn)]
    rfl

/-- After a stray count of 16 or more on a streak the streak is 0 (R22). -/
theorem takeStrayCount_streak (cfg : Startup) {n : Nat} {s : State} (hn : 16 ≤ n) (hs : s.ec.strayStreak ≠ 0) :
    (takeStrayCount cfg n s).ec.strayStreak = 0 := by
  by_cases h : Hops cfg s
  · rw [takeStrayCount_hops hn hs h]
  · rw [takeStrayCount_ambient hn hs h]

theorem released_first {cfg : Startup} {row : RowInProcess} {s : State}
    (h : strayCount cfg row.cells < 16 ∨ s.ec.strayStreak = 0) :
    SameForClose (darkRowReleased cfg row s) { s with fe := { s.fe with inProcess := none } } := by
  unfold darkRowReleased
  rw [takeStrayCount_first cfg h]
  exact ⟨rfl, rfl, rfl, rfl, rfl⟩

/-- What a dark row's end leaves alone, besides what its stray count does (R43). -/
theorem finishDarkRow_absence (cfg : Startup) (row : RowInProcess) (s : State) :
    AbsenceFrame (darkRowReleased cfg row s) (finishDarkRow cfg row s) := by
  rw [finishDarkRow_eq]
  exact (naturalEnd_absence cfg row.frame _).trans ((settleReady_absence cfg _).trans (takeNextRow_absence _))

/-- The stray count leaves alone all but the Exposure Controller, the flags and the mark of the open block (R24). -/
theorem darkRowReleased_eq (cfg : Startup) (row : RowInProcess) (s : State) :
    darkRowReleased cfg row s = { s with
      ec := (darkRowReleased cfg row s).ec
      fe := { s.fe with background := row.cells.map (·.intensity), inProcess := none }
      ss := (darkRowReleased cfg row s).ss
      lc := (darkRowReleased cfg row s).lc } := by
  unfold darkRowReleased takeStrayCount interference
  dsimp only
  split
  · rfl
  · split
    · rfl
    · split <;> rfl

theorem finishDarkRow_fe (cfg : Startup) (row : RowInProcess) (s : State) :
    (finishDarkRow cfg row s).fe = { s.fe with
      background := row.cells.map (·.intensity), queue := s.fe.queue.tail
      inProcess := s.fe.queue.head?.map (rowTaken s.tt) } := by
  have hreleased := darkRowReleased_eq cfg row s
  have hu : AbsenceFrame (darkRowReleased cfg row s)
      (settleReady cfg (naturalEnd cfg row.frame (darkRowReleased cfg row s))) :=
    (naturalEnd_absence cfg row.frame _).trans (settleReady_absence cfg _)
  rw [finishDarkRow_eq, takeNextRow_released hu (by rw [settleReady_fe, naturalEnd_fe, hreleased]),
    settleReady_fe, naturalEnd_fe, hreleased]

/-- Settles O26: the stray count, the background, the row released and the next taken, and the end or settling of
blocks. -/
theorem darkRowSetsBackground : Obligations.DarkRowSetsBackground := by
  intro cfg row s hq hp hd
  have hfe := finishDarkRow_fe cfg row s
  have hec := finishDarkRow_ec cfg row s
  simp only [← strayCount_eq]
  refine ⟨_, exec_darkRowDone hq hp hd, ?_, fun hempty => ?_, fun r rest hqueue => ?_, fun hn => ?_,
    fun hn hs => ?_, fun hn hs => ?_, fun h => ⟨fun hother => ?_, fun b hb hc hends => ?_⟩⟩
  · refine (finishDarkRow_absence cfg row s).1.trans ?_
    rw [darkRowReleased_eq, hfe, hec]
    rfl
  · rw [hfe, hempty]
    rfl
  · rw [hfe, hqueue]
    rfl
  · rw [hec, takeStrayCount_first cfg (.inl hn), if_pos hn]
  · rw [hec, takeStrayCount_first cfg (.inr hs), if_neg (Nat.not_lt.mpr hn)]
  · rw [hec, takeStrayCount_streak cfg hn hs]
  · exact finishDarkRow_settles cfg (released_first h) hother
  · exact finishDarkRow_ends cfg (released_first h) hb hc hends.1 hends.2

end Sys2Proof.Machine
end

section
/-! SUPPORT. The treatment of a lit row by the Track Table: what it can change, and what each of its steps does. -/

namespace Sys2Proof.Machine

/-! ### What the treatment of a row can change -/

/-- What the treatment of a row can change, entries made aside: the pole mark, the entries, the lanes of blocks not yet
settled and the Link Controller. -/
def RowFrame (s t : State) : Prop :=
  t = { s with
      du := { s.du with mark := t.du.mark }
      tt := { s.tt with entries := t.tt.entries }
      ss := { s.ss with openBlock := t.ss.openBlock, settling := t.ss.settling }
      lc := t.lc }
    ∧ t.tt.entries.length = s.tt.entries.length

theorem RowFrame.refl (s : State) : RowFrame s s := ⟨rfl, rfl⟩

theorem RowFrame.trans {a b c : State} (h1 : RowFrame a b) (h2 : RowFrame b c) : RowFrame a c := by
  obtain ⟨e1, l1⟩ := h1
  obtain ⟨e2, l2⟩ := h2
  refine ⟨?_, l2.trans l1⟩
  rw [e2]
  simp only
  rw [e1]

/-- With new entries the tag counter and the creation sequence change too (R89, R91, R92). -/
def CreationFrame (s t : State) : Prop :=
  t = { s with
      du := { s.du with mark := t.du.mark }
      tt := { s.tt with entries := t.tt.entries, nextTag := t.tt.nextTag, creationSeq := t.tt.creationSeq }
      ss := { s.ss with openBlock := t.ss.openBlock, settling := t.ss.settling }
      lc := t.lc }
    ∧ t.tt.entries.length = s.tt.entries.length

theorem CreationFrame.refl (s : State) : CreationFrame s s := ⟨rfl, rfl⟩

theorem CreationFrame.trans {a b c : State} (h1 : CreationFrame a b) (h2 : CreationFrame b c) : CreationFrame a c := by
  obtain ⟨e1, l1⟩ := h1
  obtain ⟨e2, l2⟩ := h2
  refine ⟨?_, l2.trans l1⟩
  rw [e2]
  simp only
  rw [e1]

theorem RowFrame.creation {s t : State} (h : RowFrame s t) : CreationFrame s t := by
  obtain ⟨e, l⟩ := h
  exact ⟨by rw [e], l⟩

theorem foldl_rowFrame {β : Type} (f : State → β → State) (h : ∀ s b, RowFrame s (f s b)) (l : List β) (s : State) :
    RowFrame s (l.foldl f s) :=
  foldl_related RowFrame .refl (fun _ _ _ => .trans) f h l s

theorem setEntry_rowFrame (s : State) (i : Nat) (e : Option Entry) : RowFrame s (s.setEntry i e) :=
  ⟨rfl, List.length_set⟩

theorem offerLane_rowFrame (i : Nat) (f : Word32) (s : State) : RowFrame s (offerLane i f s) := by
  obtain ⟨e, -, he⟩ := offerLane_frame i f s
  exact ⟨by rw [e], he.length_eq⟩

theorem stopLanes_rowFrame (tag : Byte) (c : StopCause) (s : State) : RowFrame s (stopLanes tag c s) := ⟨rfl, rfl⟩

theorem freeEntry_rowFrame (i : Nat) (s : State) : RowFrame s (freeEntry i s) := by
  cases he : s.tt.entry i with
  | none => rw [freeEntry_none he]; exact .refl s
  | some e =>
    rw [freeEntry_some he]
    exact ⟨rfl, by simp⟩

theorem updateEntry_rowFrame (row : RowInProcess) (taken : List Pairing) (s : State) (i : Nat) :
    RowFrame s (updateEntry row taken s i) := by
  unfold updateEntry
  split
  · exact .refl s
  · dsimp only
    split
    · split
      · exact (setEntry_rowFrame s i _).trans (offerLane_rowFrame _ _ _)
      · exact setEntry_rowFrame s i _
    · exact setEntry_rowFrame s i _
    · split
      · exact freeEntry_rowFrame i s
      · split
        · exact freeEntry_rowFrame i s
        · exact setEntry_rowFrame s i _

theorem mergeAt_rowFrame (s : State) (i : Nat) : RowFrame s (mergeAt s i) := by
  unfold mergeAt
  split
  · split
    · split
      · split
        · exact freeEntry_rowFrame _ s
        · exact .refl s
      · exact .refl s
    · exact .refl s
  · exact .refl s

/-- Queuing a HANDOVER changes the pole mark and the Link Controller alone (R180, R182). -/
theorem queueHandover_rowFrame (h : Handover) (s : State) : RowFrame s (queueHandover h s) := by
  rcases queueHandover_cases h s with ⟨-, e⟩ | ⟨-, ⟨i, g, -, -, e⟩ | ⟨i, g, -, -, e⟩ | e⟩ <;> rw [e] <;>
    exact ⟨rfl, rfl⟩

theorem handOver_rowFrame (i : Nat) (e : Entry) (target : Nat) (s : State) : RowFrame s (handOver i e target s) :=
  ((queueHandover_rowFrame _ s).trans (setEntry_rowFrame _ _ _)).trans (stopLanes_rowFrame _ _ _)

theorem ownershipTest_rowFrame (frame : Word32) (s : State) (i : Nat) : RowFrame s (ownershipTest frame s i) := by
  unfold ownershipTest
  split
  · exact .refl s
  · split
    · split
      · exact handOver_rowFrame i _ _ s
      · exact .refl s
    · split
      · exact handOver_rowFrame i _ _ s
      · exact .refl s
    · split
      · exact (setEntry_rowFrame s i _).trans (offerLane_rowFrame _ _ _)
      · exact .refl s
    · exact .refl s
    · exact .refl s

theorem handOn_rowFrame (cfg : Startup) (row : RowInProcess) (taken : List Pairing) (before : TrackTable) (s : State)
    (i : Nat) : RowFrame s (handOn cfg row taken before s i) := by
  have hhit (c : Option Candidate) (tag : Byte) (shared : Bool) :
      RowFrame s ((c.map fun cand => handOnHit cfg row tag cand shared s).getD s) := by
    cases c with
    | none => exact .refl s
    | some c => exact ⟨rfl, rfl⟩
  unfold handOn
  split
  · split
    · split
      · exact hhit _ _ _
      · exact hhit _ _ _
      · exact .refl s
    · exact .refl s
  · exact .refl s

theorem createFrom_creationFrame (mount : Int) (acc : List Nat × State) (c : Candidate) :
    CreationFrame acc.2 (createFrom mount acc c).2 := by
  have hroom {i : Nat} {u : State} (h : makeRoom acc.1 acc.2 = some (i, u)) : CreationFrame acc.2 u := by
    unfold makeRoom at h
    split at h
    · cases h
      exact .refl _
    · obtain ⟨j, -, hj⟩ := Option.map_eq_some_iff.mp h
      cases hj
      exact (freeEntry_rowFrame _ _).creation
  unfold createFrom
  dsimp only
  split
  · split
    · rename_i i u h
      exact (hroom h).trans ⟨rfl, List.length_set⟩
    · exact ⟨rfl, rfl⟩
  · exact .refl _

theorem createEntries_creationFrame (mount : Int) (row : RowInProcess) (taken : List Pairing) (s : State) :
    CreationFrame s (createEntries mount row taken s) := by
  unfold createEntries
  split
  · exact foldl_related (fun a b : List Nat × State => CreationFrame a.2 b.2) (fun a => .refl a.2)
      (fun _ _ _ => .trans) _ (createFrom_creationFrame mount) _ ([], s)
  · exact .refl s

/-- Off a FULL row nothing is created (R87). -/
theorem createEntries_of_gateOnly (mount : Int) {row : RowInProcess} (taken : List Pairing) (s : State)
    (h : row.cls = .gateOnly) : createEntries mount row taken s = s := by
  unfold createEntries
  rw [if_neg (by rw [h]; simp)]

/-- The treatment of a row by the Track Table, step by step in order (R76, R79, R80, R87, R94, R104). -/
theorem treatRow_eq (cfg : Startup) (row : RowInProcess) (s : State) :
    treatRow cfg row s =
      let taken := associate cfg.mountOffset (row.searchedFor s.tt.entries) row.candidates
      (List.range 8).foldl (handOn cfg row taken s.tt)
        ((List.range 8).foldl (ownershipTest row.frame)
          (createEntries cfg.mountOffset row taken
            ((List.range 8).foldl mergeAt ((List.range 8).foldl (updateEntry row taken) s)))) := rfl

theorem treatRow_creationFrame (cfg : Startup) (row : RowInProcess) (s : State) :
    CreationFrame s (treatRow cfg row s) := by
  rw [treatRow_eq]
  exact ((foldl_rowFrame _ (updateEntry_rowFrame row _) _ s).trans (foldl_rowFrame _ mergeAt_rowFrame _ _)).creation.trans
    ((createEntries_creationFrame cfg.mountOffset row _ _).trans
      ((foldl_rowFrame _ (ownershipTest_rowFrame row.frame) _ _).trans
        (foldl_rowFrame _ (handOn_rowFrame cfg row _ s.tt) _ _)).creation)

theorem treatRow_rowFrame (cfg : Startup) {row : RowInProcess} (s : State) (h : row.cls = .gateOnly) :
    RowFrame s (treatRow cfg row s) := by
  rw [treatRow_eq]
  dsimp only
  rw [createEntries_of_gateOnly cfg.mountOffset _ _ h]
  exact (foldl_rowFrame _ (updateEntry_rowFrame row _) _ s).trans ((foldl_rowFrame _ mergeAt_rowFrame _ _).trans
      ((foldl_rowFrame _ (ownershipTest_rowFrame row.frame) _ _).trans
        (foldl_rowFrame _ (handOn_rowFrame cfg row _ s.tt) _ _)))

/-! ### The search and the association -/

/-- The entries that have a part in the association of a lit row (R79). -/
theorem searchedFor_eq {row : RowInProcess} (h : row.cls ≠ .dark) (entries : List (Option Entry)) :
    row.searchedFor entries = entries.map fun p => p.filter fun e =>
      decide (row.cls = .full ∨ ∃ g ∈ row.gates, g.seq = e.seq) := by
  unfold RowInProcess.searchedFor
  cases hc : row.cls with
  | dark => exact absurd hc h
  | full =>
    simp only [reduceCtorEq, if_false, true_or, decide_true]
    exact (List.map_id'' (fun p => by cases p <;> rfl) entries).symm
  | gateOnly =>
    simp only [if_true, reduceCtorEq, false_or]
    refine List.map_congr_left fun p _ => congrArg (p.filter ·) (funext fun e => ?_)
    rw [Bool.eq_iff_iff]
    simp

/-- The state in which the Track Table treats a row that has been searched (R48, R54, R57). -/
def rowSearched (cfg : Startup) (row : RowInProcess) (s : State) : State :=
  let found := searchRow cfg s.fe.background row
  { s with
    fe := { s.fe with inProcess := some (row.searched found.1 found.2.1) }
    lc := { s.lc with
      sticky := if found.2.2 then s.lc.sticky ||| StickyFlag.candidatesTruncated.mask else s.lc.sticky } }

theorem associateRow_eq (cfg : Startup) (row : RowInProcess) (s : State) :
    associateRow cfg row s =
      let found := searchRow cfg s.fe.background row
      treatRow cfg (row.searched found.1 found.2.1) (rowSearched cfg row s) := by
  unfold associateRow rowSearched State.raiseIf
  dsimp only
  cases (searchRow cfg s.fe.background row).2.2 <;> rfl

theorem exec_rowAssociation {cfg : Startup} {row : RowInProcess} {s : State} (hq : Quiet cfg s)
    (hp : s.fe.inProcess = some row) (hd : row.cls ≠ .dark) (ha : row.associated = false) :
    exec .rowAssociation s = .next (associateRow cfg row s) := by
  refine (congrArg Host.Outcome.next (inOperating_quiet hq)).trans ?_
  simp only [hp, if_pos (And.intro hd ha)]

/-! ### Updates -/

/-- An entry whose candidate no other entry has gets an ordinary hit (R76). -/
theorem rowResult_hit {taken : List Pairing} (hn : (taken.map (·.entry)).Nodup) {q : Pairing} (hq : q ∈ taken)
    (halone : ∀ q' ∈ taken, q'.cand = q.cand → q' = q) : rowResult taken q.entry = .hit q.cand q.err := by
  rcases rowResult_cases hn hq with ⟨-, h⟩ | ⟨q', hq', hcand, hne, -, -⟩
  · exact h
  · exact absurd (halone q' hq' hcand) hne

/-- One whose candidate one other entry has gets a shared hit with it (R77). -/
theorem rowResult_shared {taken : List Pairing} (hn : (taken.map (·.entry)).Nodup) {q q' : Pairing} (hq : q ∈ taken)
    (hq' : q' ∈ taken) (hne : q' ≠ q) (hcand : q'.cand = q.cand)
    (hall : ∀ r ∈ taken, r.cand = q.cand → r = q ∨ r = q') :
    rowResult taken q.entry = .shared q.cand q.err q'.entry := by
  rcases rowResult_cases hn hq with ⟨halone, -⟩ | ⟨r, hr, hrc, hrq, -, h⟩
  · exact absurd (halone q' hq' hcand) hne
  · obtain rfl := (hall r hr hrc).resolve_left hrq
    exact h

/-- The update of an entry by what the association gives it (R80 to R84). -/
theorem updateEntry_hit {row : RowInProcess} {taken : List Pairing} {u : State} {i c : Nat} {e : Entry} {err : Int}
    {d : Candidate} (he : u.tt.entry i = some e) (hr : rowResult taken i = .hit c err)
    (hc : row.candidates[c]? = some d) :
    updateEntry row taken u i =
      let e' := e.afterHit u.tt.zone err d.height
      if e.state = .tentative ∧ e'.state = .owned then offerLane i row.frame (u.setEntry i (some e'))
      else u.setEntry i (some e') := by
  unfold updateEntry
  simp only [he, hr, hc, Option.map_some, Option.getD_some]

theorem updateEntry_shared {row : RowInProcess} {taken : List Pairing} {u : State} {i c j : Nat} {e : Entry}
    {err : Int} {d : Candidate} (he : u.tt.entry i = some e) (hr : rowResult taken i = .shared c err j)
    (hc : row.candidates[c]? = some d) :
    updateEntry row taken u i = u.setEntry i (some (e.afterShared u.tt.zone err d.height j)) := by
  unfold updateEntry
  simp only [he, hr, hc, Option.map_some, Option.getD_some]

theorem updateEntry_miss {row : RowInProcess} {taken : List Pairing} {u : State} {i : Nat} {e : Entry}
    (he : u.tt.entry i = some e) (hr : rowResult taken i = .miss) :
    updateEntry row taken u i =
      if e.state = .tentative ∨ 8 ≤ e.missUpdate.misses then freeEntry i u
      else u.setEntry i (some e.missUpdate) := by
  unfold updateEntry
  simp only [he, hr]
  by_cases ht : e.state = .tentative <;> simp [ht]

/-! ### Merging -/

theorem isConfirmed_iff (e : Entry) : e.isConfirmed = true ↔ e.state ≠ .tentative := by simp [Entry.isConfirmed]

theorem areDuplicates_iff (i j : Nat) (a b : Entry) :
    areDuplicates i j a b = true ↔ a.state ≠ .tentative ∧ b.state ≠ .tentative ∧ a.partner = some j
      ∧ b.partner = some i ∧ a.sharedStreak = 16 ∧ b.sharedStreak = 16 ∧ (a.v - b.v).natAbs ≤ 100 := by
  simp [areDuplicates, isConfirmed_iff, and_assoc]

/-- A duplicate pair is merged at its lower index (R86). -/
theorem mergeAt_duplicates {u : State} {i j : Nat} {a b : Entry} (ha : u.tt.entry i = some a)
    (hb : u.tt.entry j = some b) (hij : i < j) (hd : areDuplicates i j a b = true) :
    mergeAt u i = freeEntry (if a.youngerThan b then i else j) u := by
  have hp : a.partner = some j := ((areDuplicates_iff i j a b).mp hd).2.2.1
  unfold mergeAt
  simp only [ha, hp, hb, if_pos (And.intro hij hd)]

/-- Nothing else is (R86). -/
theorem mergeAt_other {u : State} {i : Nat} {a : Entry} (ha : u.tt.entry i = some a)
    (h : ∀ j b, u.tt.entry j = some b → i < j → ¬areDuplicates i j a b = true) : mergeAt u i = u := by
  unfold mergeAt
  rw [ha]
  dsimp only
  split
  · split
    · rename_i j _ _ b hb
      exact if_neg fun hd => h j b hb hd.1 hd.2
    · rfl
  · rfl

/-! ### Creation -/

theorem exists_index_of_mem {t : TrackTable} {e : Entry} (h : some e ∈ t.entries) : ∃ i, t.entry i = some e := by
  obtain ⟨i, hi, he⟩ := List.mem_iff_getElem.mp h
  exact ⟨i, by rw [TrackTable.entry, List.getD_eq_getElem _ _ hi, he]⟩

theorem farFromAll_iff (t : TrackTable) (m : Int) :
    farFromAll t m = true ↔ ∀ j d, t.entry j = some d → 12000 < (m - d.x).natAbs := by
  unfold farFromAll
  rw [List.all_eq_true]
  constructor
  · intro h j d hd
    simpa using h _ (entry_mem hd)
  · intro h p hp
    cases p with
    | none => rfl
    | some e =>
      obtain ⟨j, hj⟩ := exists_index_of_mem hp
      simpa using h j e hj

/-- A candidate starts an entry where room can be made (R87, R89). -/
theorem createFrom_makes {mount : Int} {made : List Nat} {u w : State} {c : Candidate} {i : Nat}
    (h1 : c.clipped = .no) (h2 : farFromAll u.tt (carLateral mount c.centre) = true)
    (hroom : makeRoom made u = some (i, w)) :
    createFrom mount (made, u) c =
      (i :: made, placeEntry i (tentativeEntry (carLateral mount c.centre) c.height) w) := by
  unfold createFrom
  simp only [if_pos (And.intro h1 h2), hroom]

theorem createFrom_saturated {mount : Int} {made : List Nat} {u : State} {c : Candidate} (h1 : c.clipped = .no)
    (h2 : farFromAll u.tt (carLateral mount c.centre) = true) (hroom : makeRoom made u = none) :
    createFrom mount (made, u) c = (made, u.raise .tableSaturated) := by
  unfold createFrom
  simp only [if_pos (And.intro h1 h2), hroom]

theorem makeRoom_of_free {made : List Nat} {u : State} {i : Nat} (h : u.tt.freePosition = some i) :
    makeRoom made u = some (i, u) := by
  unfold makeRoom
  rw [h]

theorem makeRoom_of_full {made : List Nat} {u : State} (h : u.tt.freePosition = none) :
    makeRoom made u = (victim u.tt made).map fun i => (i, freeEntry i u) := by
  unfold makeRoom
  rw [h]

/-! ### Ownership tests -/

/-- The state after entry `e` at index `i` has been handed over (R106). -/
theorem handOver_eq (i : Nat) (e : Entry) (target : Nat) (u : State) :
    handOver i e target u =
      let q := queueHandover (handoverTelegram e target u.du.frameIndex) u
      { q with
        tt := { q.tt with entries := q.tt.entries.set i (some (e.yieldTo target)) }
        ss := q.ss.stopping e.tag fun l => { l with handed := true } } := by
  unfold handOver
  rw [stopLanes_handed]
  rfl

theorem ownershipTest_owner {frame : Word32} {u : State} {i : Nat} {e : Entry} (he : u.tt.entry i = some e)
    (hs : e.state = .owned ∨ e.state = .coasting) :
    ownershipTest frame u i =
      ((handoverTarget u.tt.zone e.x).map fun target => handOver i e target u).getD u := by
  unfold ownershipTest
  rw [he]
  dsimp only
  rcases hs with hs | hs <;> rw [hs] <;> dsimp only <;> cases handoverTarget u.tt.zone e.x <;> rfl

theorem ownershipTest_watched {frame : Word32} {u : State} {i : Nat} {e : Entry} (he : u.tt.entry i = some e)
    (hs : e.state = .watched) :
    ownershipTest frame u i =
      if takesOver u.tt.zone e.x then offerLane i frame (u.setEntry i (some { e with state := .owned })) else u := by
  unfold ownershipTest
  rw [he]
  simp only [hs]

theorem ownershipTest_other {frame : Word32} {u : State} {i : Nat} {e : Entry} (he : u.tt.entry i = some e)
    (hs : e.state = .tentative ∨ e.state = .yielded) : ownershipTest frame u i = u := by
  unfold ownershipTest
  rw [he]
  rcases hs with hs | hs <;> simp only [hs]

/-- The neighbour that an entry past a boundary is handed to (R105). -/
theorem handoverTarget_right {z : Zone} {x : Int} {k : Nat} (hk : z.rightSetBy = some k) (hx : z.right + 8000 ≤ x) :
    handoverTarget z x = some k := by
  unfold handoverTarget
  rw [if_pos ⟨hx, by rw [hk]; rfl⟩, hk]

theorem handoverTarget_left {z : Zone} {x : Int} {k : Nat} (hk : z.leftSetBy = some k) (hx : x < z.left - 8000)
    (hn : ¬(z.rightSetBy ≠ none ∧ z.right + 8000 ≤ x)) : handoverTarget z x = some k := by
  unfold handoverTarget
  rw [if_neg (by rwa [and_comm, Option.isSome_iff_ne_none]), if_pos ⟨hx, by rw [hk]; rfl⟩, hk]

theorem handoverTarget_none {z : Zone} {x : Int} (hr : ¬(z.rightSetBy ≠ none ∧ z.right + 8000 ≤ x))
    (hl : ¬(z.leftSetBy ≠ none ∧ x < z.left - 8000)) : handoverTarget z x = none := by
  unfold handoverTarget
  rw [if_neg (by rwa [and_comm, Option.isSome_iff_ne_none]), if_neg (by rwa [and_comm, Option.isSome_iff_ne_none])]

theorem takesOver_iff (z : Zone) (x : Int) : takesOver z x = true ↔ z.left + 8000 ≤ x ∧ x < z.right - 8000 := by
  simp [takesOver]

/-! ### Handing on -/

/-- A lane of block `b`, latest frame `now`, with a hit written into it when it is TAKING for the tag and its range
holds the row's frame (R94, R133, R134, R165). -/
def hitWritten (cfg : Startup) (su : StaggerUnit) (now : Word32) (row : RowInProcess) (tag : Byte) (c : Candidate)
    (shared : Bool) (b : Block) (l : Lane) : Lane :=
  if l.status = .taking ∧ l.tag = tag
      ∧ (row.frame - l.firstFrame).toNat ≤ (((b.closing.map (·.lastFrame)).getD now) - l.firstFrame).toNat
  then { l with
    hitFrames := l.hitFrames + 1, acc := accumulate cfg su c l.acc
    crossing := l.crossing || decide (row.cls = .full ∧ shared = true)
    strips :=
      if row.cls = .full ∧ b.bank ≠ none ∧ l.strips.length < 28 then
        l.strips ++ [(List.range 64).map fun k =>
          if c.centre / 16 + k < 32 then 0 else row.processed.getD (c.centre / 16 + k - 32) 0]
      else l.strips }
  else l

theorem handOnHit_eq (cfg : Startup) (row : RowInProcess) (tag : Byte) (c : Candidate) (shared : Bool) (u : State) :
    handOnHit cfg row tag c shared u =
      let write (b : Block) : Block :=
        { b with lanes := b.lanes.map (hitWritten cfg u.su u.du.frameIndex row tag c shared b) }
      { u with ss := { u.ss with openBlock := u.ss.openBlock.map write, settling := u.ss.settling.map write } } := by
  have hlane (b : Block) : (fun l : Lane =>
      if l.isTaking && l.tag == tag && l.covers b u.du.frameIndex row.frame then writeHit cfg u.su row c shared b l
      else l) = hitWritten cfg u.su u.du.frameIndex row tag c shared b := by
    funext l
    have hcond : (l.isTaking && l.tag == tag && l.covers b u.du.frameIndex row.frame) = true ↔
        l.status = .taking ∧ l.tag = tag ∧ (row.frame - l.firstFrame).toNat ≤
          (((b.closing.map (·.lastFrame)).getD u.du.frameIndex) - l.firstFrame).toNat := by
      simp only [Bool.and_eq_true, Lane.isTaking, beq_iff_eq, Lane.covers, inFrames, decide_eq_true_eq, and_assoc]
      rfl
    have hwrite : writeHit cfg u.su row c shared b l = { l with
        hitFrames := l.hitFrames + 1, acc := accumulate cfg u.su c l.acc
        crossing := l.crossing || decide (row.cls = .full ∧ shared = true)
        strips :=
          if row.cls = .full ∧ b.bank ≠ none ∧ l.strips.length < 28 then
            l.strips ++ [(List.range 64).map fun k =>
              if c.centre / 16 + k < 32 then 0 else row.processed.getD (c.centre / 16 + k - 32) 0]
          else l.strips } := by
      have hcross : (shared && row.cls == .full) = decide (row.cls = .full ∧ shared = true) := by
        rw [Bool.eq_iff_iff]
        simp [and_comm]
      simp only [writeHit, hcross, Option.isSome_iff_ne_none]
      rfl
    unfold hitWritten
    simp only [hcond, hwrite]
  simp only [handOnHit, State.setSs, StripStore.mapLanes, Block.mapLanes, hlane]


/-- A hit reaches its lane from an entry that was neither freed nor replaced (R94). -/
theorem handOn_hit {cfg : Startup} {row : RowInProcess} {taken : List Pairing} {before : TrackTable} {u : State}
    {i c : Nat} {e e' : Entry} {err : Int} {d : Candidate} (he : before.entry i = some e)
    (he' : u.tt.entry i = some e') (hseq : e'.seq = e.seq) (hr : rowResult taken i = .hit c err)
    (hc : row.candidates[c]? = some d) :
    handOn cfg row taken before u i = handOnHit cfg row e'.tag d false u := by
  unfold handOn
  simp only [he, he', hseq, if_true, hr, hc, Option.map_some, Option.getD_some]

theorem handOn_shared {cfg : Startup} {row : RowInProcess} {taken : List Pairing} {before : TrackTable} {u : State}
    {i c j : Nat} {e e' : Entry} {err : Int} {d : Candidate} (he : before.entry i = some e)
    (he' : u.tt.entry i = some e') (hseq : e'.seq = e.seq) (hr : rowResult taken i = .shared c err j)
    (hc : row.candidates[c]? = some d) :
    handOn cfg row taken before u i = handOnHit cfg row e'.tag d true u := by
  unfold handOn
  simp only [he, he', hseq, if_true, hr, hc, Option.map_some, Option.getD_some]

/-- No other hit does (R94). -/
theorem handOn_none {cfg : Startup} {row : RowInProcess} {taken : List Pairing} {before : TrackTable} {u : State}
    {i : Nat} (h : before.entry i = none ∨ u.tt.entry i = none ∨ rowResult taken i = .miss
      ∨ ∃ e e', before.entry i = some e ∧ u.tt.entry i = some e' ∧ e'.seq ≠ e.seq) :
    handOn cfg row taken before u i = u := by
  unfold handOn
  split
  · rename_i e e' he he'
    rcases h with h | h | h | ⟨d, d', hd, hd', hne⟩
    · rw [he] at h; cases h
    · rw [he'] at h; cases h
    · simp only [h, ite_self]
    · obtain rfl : e = d := Option.some.inj (he.symm.trans hd)
      obtain rfl : e' = d' := Option.some.inj (he'.symm.trans hd')
      exact if_neg (Ne.symm hne)
  · rfl

/-- Settles O30: the treatment step by step and what it leaves alone, and then each of its steps. -/
theorem rowAssociationTreatsRowWhole : Obligations.RowAssociationTreatsRowWhole := by
  refine ⟨?treatment, ?update, ?merging, ?creation, ?ownership, ?handing⟩
  case treatment =>
    intro cfg row s hq hp hd ha found row' present taken searched merged created tested
    have hpresent : row'.searchedFor searched.tt.entries = present := searchedFor_eq hd s.tt.entries
    have hrun : exec .rowAssociation s = .next (treatRow cfg row' searched) := by
      rw [exec_rowAssociation hq hp hd ha, associateRow_eq]
      rfl
    have hframe := treatRow_creationFrame cfg row' searched
    refine ⟨_, hrun, ?_, hframe.1, hframe.2, fun hg => ?_⟩
    · rw [treatRow_eq, hpresent]
      rfl
    · rw [(treatRow_rowFrame cfg (row := row') searched hg).1]
      exact ⟨rfl, rfl⟩
  case update =>
    intro row taken u i e he hn
    refine ⟨?_, ?_, fun hno => ?_⟩
    · rintro q d hq rfl hd halone e'
      have hu := updateEntry_hit he (rowResult_hit hn hq halone) hd
      refine ⟨fun h1 h2 => ?_, fun h => ?_⟩
      · rw [hu, if_pos ⟨h1, h2⟩]
        exact offerLane_offered (entry_lt he) e' row.frame
      · rw [hu, if_neg h]
    · rintro q q' d hq hq' rfl hne hcand hall hd
      exact updateEntry_shared he (rowResult_shared hn hq hq' hne hcand hall) hd
    · have hu := updateEntry_miss (row := row) he (rowResult_miss hno)
      refine ⟨fun h => ?_, fun h1 h2 => ?_⟩
      · rw [hu, if_pos h]
        exact freeEntry_freed he
      · rw [hu, if_neg (by rintro (h | h); exact h1 h; omega)]
  case merging =>
    intro u i a ha duplicates
    refine ⟨?_, fun hno => ?_⟩
    · rintro j b ⟨hij, hb, hdup⟩
      rw [mergeAt_duplicates ha hb hij ((areDuplicates_iff i j a b).mpr hdup)]
      refine ⟨fun h => ?_, fun h => ?_⟩
      · rw [if_pos (by simpa [Entry.youngerThan] using h)]
        exact freeEntry_freed ha
      · rw [if_neg (by simpa [Entry.youngerThan] using h)]
        exact freeEntry_freed hb
    · exact mergeAt_other ha fun j b hb hij hdup => hno j b ⟨hij, hb, (areDuplicates_iff i j a b).mp hdup⟩
  case creation =>
    intro mount made u c m passes placed
    have hpasses : passes ↔ c.clipped = .no ∧ farFromAll u.tt m = true := by rw [farFromAll_iff]
    refine ⟨fun h => if_neg (mt hpasses.mpr h), fun h i hi hfree hlow => ?_, fun h hfull => ?_⟩
    · obtain ⟨h1, h2⟩ := hpasses.mp h
      exact createFrom_makes h1 h2 (makeRoom_of_free (freePosition_some hi hfree hlow))
    · obtain ⟨h1, h2⟩ := hpasses.mp h
      have hroom := makeRoom_of_full (made := made) (freePosition_none hfull)
      cases hv : victim u.tt made with
      | none =>
        rw [hv] at hroom
        exact .inr ⟨victim_none hv, createFrom_saturated h1 h2 hroom⟩
      | some i =>
        rw [hv] at hroom
        obtain ⟨e, he⟩ := victim_is hv
        exact .inl ⟨i, e, _, he, freeEntry_freed he.entry, createFrom_makes h1 h2 hroom⟩
  case ownership =>
    intro frame u i e he z handedTo
    have hhanded (k : Nat) : handOver i e k u = handedTo k := handOver_eq i e k u
    refine ⟨fun hs => ⟨fun k hk hx => ?_, fun k hk hx hn => ?_, fun hr hl => ?_⟩, fun hs h1 h2 => ?_,
      fun hs h => ?_, ownershipTest_other he⟩
    · rw [ownershipTest_owner he hs, handoverTarget_right hk hx]
      exact hhanded k
    · rw [ownershipTest_owner he hs, handoverTarget_left hk hx hn]
      exact hhanded k
    · rw [ownershipTest_owner he hs, handoverTarget_none hr hl]
      rfl
    · rw [ownershipTest_watched he hs, if_pos ((takesOver_iff _ _).mpr ⟨h1, h2⟩)]
      exact offerLane_offered (entry_lt he) _ frame
    · rw [ownershipTest_watched he hs, if_neg (mt (takesOver_iff _ _).mp h)]
  case handing =>
    intro cfg row taken before u i hn
    refine ⟨?_, fun h => handOn_none (h.imp_right (Or.imp_right (Or.imp_left rowResult_miss)))⟩
    rintro e e' q d he he' hseq hq rfl hd written write
    have hwritten {shared : Bool} (hs : (∃ q' ∈ taken, q'.cand = q.cand ∧ q' ≠ q) ↔ shared = true) :
        hitWritten cfg u.su u.du.frameIndex row e'.tag d shared = written := by
      funext b l
      simp only [hitWritten, written, hs]
    rcases rowResult_cases hn hq with ⟨halone, hr⟩ | ⟨q', hq', hcand, hne, -, hr⟩
    · have hs : ¬∃ q' ∈ taken, q'.cand = q.cand ∧ q' ≠ q := fun ⟨q', hq', hc, hne⟩ => hne (halone q' hq' hc)
      rw [handOn_hit he he' hseq hr hd, handOnHit_eq, hwritten (iff_of_false hs (by simp))]
    · rw [handOn_shared he he' hseq hr hd, handOnHit_eq, hwritten (iff_of_true ⟨q', hq', hcand, hne⟩ rfl)]

end Sys2Proof.Machine
end

section
/-! SUPPORT. The search of a lit row: cleaning, runs, candidates, and which of them are kept. -/

namespace Sys2Proof.Machine

/-! ### Cleaning -/

theorem isExcluded_iff (windows : List Window) (i : Nat) :
    isExcluded windows i = true ↔ ∃ w ∈ windows, w.enabled = true ∧ Nat.land i w.mask = Nat.land w.base w.mask := by
  simp [isExcluded, windowMatches]

/-- The processed row, cell by cell (R44, R48). -/
theorem cleanRow_getElem? (cfg : Startup) (background : List Sample) {cells : List RowCell} {i : Nat} {c : RowCell}
    (h : cells[i]? = some c) :
    (cleanRow cfg background cells)[i]? = some (cleanCell cfg (background.getD i 0) i c) := by
  simp [cleanRow, h]

@[simp] theorem cleanRow_length (cfg : Startup) (background : List Sample) (cells : List RowCell) :
    (cleanRow cfg background cells).length = cells.length := by
  simp [cleanRow]

/-- A cell without a height is one of height code 0 (R47). -/
theorem height_eq_zero_iff (h : Sample) : h = 0 ↔ h.toNat = 0 := by
  rw [← BitVec.toNat_inj]
  rfl

/-- A cell that no window excludes and whose height lies in the band (R46, R47). -/
def InBand (cfg : Startup) (i : Nat) (c : RowCell) : Prop :=
  ¬((∃ w ∈ cfg.windows, w.enabled = true ∧ Nat.land i w.mask = Nat.land w.base w.mask)
      ∨ c.height = 0 ∨ c.height.toNat < cfg.bandLow ∨ cfg.bandHigh < c.height.toNat)

/-- Any other cell takes 0 (R46, R47). -/
theorem cleanCell_of_not_inBand {cfg : Startup} (b : Sample) {i : Nat} {c : RowCell} (h : ¬InBand cfg i c) :
    cleanCell cfg b i c = 0 := by
  rw [InBand, not_not, ← isExcluded_iff, height_eq_zero_iff] at h
  unfold cleanCell
  dsimp only
  rcases h with h | h
  · rw [if_pos h]
  · rw [if_pos h, ite_self]

/-- Such a cell is raw less background, floored at 0 (R45). -/
theorem cleanCell_of_inBand {cfg : Startup} (b : Sample) {i : Nat} {c : RowCell} (h : InBand cfg i c) :
    cleanCell cfg b i c = c.intensity.toNat - b.toNat := by
  rw [InBand, ← isExcluded_iff, not_or, height_eq_zero_iff] at h
  unfold cleanCell
  dsimp only
  rw [if_neg h.1, if_neg h.2]

theorem cleanCell_le (cfg : Startup) (b : Sample) (i : Nat) (c : RowCell) : cleanCell cfg b i c ≤ 4095 := by
  by_cases h : InBand cfg i c
  · rw [cleanCell_of_inBand b h]
    have := c.intensity.isLt
    omega
  · rw [cleanCell_of_not_inBand b h]
    omega

/-- Settles O28: the three steps, cell by cell. -/
theorem cleaningFollowsThreeSteps : Obligations.CleaningFollowsThreeSteps := by
  intro cfg background cells i c hc
  refine ⟨_, cleanRow_getElem? cfg background hc, cleanCell_le cfg _ i c, ?_⟩
  by_cases h : InBand cfg i c
  · rw [if_neg h, cleanCell_of_inBand _ h]
    omega
  · rw [if_pos (not_not.mp h), cleanCell_of_not_inBand _ h]
    rfl

/-! ### Runs -/

/-- Cells a to b of the n cells with intensities p are a longest stretch at or above t (R49). -/
structure IsRun (t : Nat) (p : Nat → Nat) (n a b : Nat) : Prop where
  le : a ≤ b
  lt : b < n
  bright : ∀ j, a ≤ j → j ≤ b → t ≤ p j
  starts : a = 0 ∨ p (a - 1) < t
  ends : b + 1 = n ∨ p (b + 1) < t

/-- The run that starts no earlier than a bright stretch's start, and no later than its end, is that stretch. -/
theorem IsRun.eq_of_start {t n a c : Nat} {p : Nat → Nat} {r : BrightRun} (h : IsRun t p n r.first r.last)
    (ha : a ≤ r.first) (hc : r.first ≤ c) (hbright : ∀ j, a ≤ j → j ≤ c → t ≤ p j) (hn : c < n)
    (hend : c + 1 = n ∨ p (c + 1) < t) : r = ⟨a, c⟩ := by
  obtain ⟨hle, hlt, hb, hstart, hends⟩ := h
  have hfirst : r.first = a := by
    rcases hstart with h0 | h0
    · omega
    · by_contra hne
      have := hbright (r.first - 1) (by omega) (by omega)
      omega
  have hlast : r.last = c := by
    by_contra hne
    rcases Nat.lt_or_gt_of_ne hne with h | h
    · rcases hends with he | he
      · omega
      · have := hbright (r.last + 1) (by omega) (by omega)
        omega
    · rcases hend with he | he
      · omega
      · have := hb (c + 1) (by omega) (by omega)
        omega
  rw [← hfirst, ← hlast]

/-- What the scan finds from cell i on, with a run that has reached cell i - 1 from its first cell, or from cell i
without one: every run from there on, in order of their first cells (R49). -/
theorem runsFrom_spec (t n : Nat) (p : Nat → Nat) : ∀ (xs : List Nat) (i : Nat) (cur : Option Nat),
    i + xs.length = n → (∀ k x, xs[k]? = some x → p (i + k) = x) → (∀ a, cur = some a → a < i) →
    (∀ j, cur.getD i ≤ j → j < i → t ≤ p j) → (cur.getD i = 0 ∨ p (cur.getD i - 1) < t) →
    (∀ r, r ∈ runsFrom t i cur xs ↔ IsRun t p n r.first r.last ∧ cur.getD i ≤ r.first)
      ∧ (runsFrom t i cur xs).Pairwise fun r q => r.first < q.first
  | [], i, none, hn, _, _, _, _ => by
    refine ⟨fun r => ?_, .nil⟩
    simp only [runsFrom, List.not_mem_nil, false_iff]
    rintro ⟨⟨hle, hlt, -, -, -⟩, hi⟩
    simp only [List.length_nil, Option.getD_none] at hn hi
    omega
  | [], i, some a, hn, _, ha, hb, hs => by
    have hai := ha a rfl
    simp only [List.length_nil, Nat.add_zero, Option.getD_some] at hn hb hs
    refine ⟨fun r => ?_, List.pairwise_singleton _ _⟩
    simp only [runsFrom, List.mem_singleton, Option.getD_some]
    constructor
    · rintro rfl
      exact ⟨⟨by simp only; omega, by simp only; omega, fun j h1 h2 => hb j h1 (by simp only at h2; omega), hs,
        .inl (by simp only; omega)⟩, le_rfl⟩
    · rintro ⟨hr, hra⟩
      refine hr.eq_of_start hra ?_ (fun j h1 h2 => hb j h1 (by omega)) (by omega) (.inl (by omega))
      have := hr.le
      have := hr.lt
      omega
  | x :: xs, i, cur, hn, hp, ha, hb, hs => by
    have hx : p i = x := hp 0 x rfl
    have hn' : i + 1 + xs.length = n := by rw [← hn, List.length_cons]; omega
    have hp' : ∀ k y, xs[k]? = some y → p (i + 1 + k) = y := fun k y hy => by
      rw [← hp (k + 1) y (by simpa using hy)]
      congr 1
      omega
    have hi : i < n := by omega
    by_cases ht : t ≤ x
    · have hle : cur.getD i ≤ i := by
        cases cur with
        | none => exact le_rfl
        | some a => exact (ha a rfl).le
      have ih := runsFrom_spec t n p xs (i + 1) (some (cur.getD i)) hn' hp'
        (fun a h => by cases h; omega)
        (fun j h1 h2 => by
          by_cases hj : j = i
          · rw [hj, hx]; exact ht
          · exact hb j h1 (by omega)) hs
      have e : runsFrom t i cur (x :: xs) = runsFrom t (i + 1) (some (cur.getD i)) xs := by
        cases cur <;> simp [runsFrom, ht]
      rw [e]
      exact ih
    · have hdark : p i < t := by omega
      obtain ⟨hmem, hsorted⟩ := runsFrom_spec t n p xs (i + 1) none hn' hp' (fun a h => by cases h)
        (fun j h1 h2 => absurd h2 (Nat.not_lt.mpr h1)) (.inr hdark)
      simp only [Option.getD_none] at hmem
      have hlater {r : BrightRun} (hr : IsRun t p n r.first r.last) : i ≤ r.first → i + 1 ≤ r.first := fun h => by
        have hb := hr.bright r.first le_rfl hr.le
        by_contra hne
        rw [show r.first = i by omega] at hb
        omega
      cases cur with
      | none =>
        have e : runsFrom t i none (x :: xs) = runsFrom t (i + 1) none xs := by simp [runsFrom, ht]
        rw [e]
        refine ⟨fun r => (hmem r).trans ⟨fun h => ⟨h.1, ?_⟩, fun h => ⟨h.1, hlater h.1 h.2⟩⟩, hsorted⟩
        exact Nat.le_of_succ_le h.2
      | some a =>
        have hai := ha a rfl
        simp only [Option.getD_some] at hb hs ⊢
        have e : runsFrom t i (some a) (x :: xs) = ⟨a, i - 1⟩ :: runsFrom t (i + 1) none xs := by simp [runsFrom, ht]
        have hi1 : i - 1 + 1 = i := by omega
        rw [e]
        refine ⟨fun r => ?_, List.pairwise_cons.mpr ⟨fun r hr => ?_, hsorted⟩⟩
        · rw [List.mem_cons, hmem]
          constructor
          · rintro (rfl | ⟨hr, hir⟩)
            · exact ⟨⟨by simp only; omega, by simp only; omega, fun j h1 h2 => hb j h1 (by simp only at h2; omega), hs,
                .inr (by simp only [hi1]; exact hdark)⟩, le_rfl⟩
            · exact ⟨hr, by omega⟩
          · rintro ⟨hr, har⟩
            by_cases hri : i ≤ r.first
            · exact .inr ⟨hr, hlater hr hri⟩
            · exact .inl (hr.eq_of_start har (by omega) (fun j h1 h2 => hb j h1 (by omega)) (by omega)
                (.inr (by rw [hi1]; exact hdark)))
        · have := ((hmem r).mp hr).2
          show a < r.first
          omega

/-- The runs of a processed row are those of R49. -/
theorem mem_brightRuns {t : Nat} {l : List Nat} {r : BrightRun} :
    r ∈ brightRuns t l ↔ IsRun t (l.getD · 0) l.length r.first r.last := by
  have h := (runsFrom_spec t l.length (l.getD · 0) l 0 none (Nat.zero_add _)
    (fun k x hk => by simp [hk]) (fun a h => by cases h) (fun j _ h => by omega) (.inl rfl)).1 r
  simpa [brightRuns] using h

theorem brightRuns_sorted (t : Nat) (l : List Nat) : (brightRuns t l).Pairwise fun r q => r.first < q.first :=
  (runsFrom_spec t l.length (l.getD · 0) l 0 none (Nat.zero_add _)
    (fun k x hk => by simp [hk]) (fun a h => by cases h) (fun j _ h => by omega) (.inl rfl)).2

/-! ### Which candidates are kept -/

/-- A relation orders a list: no element goes before itself, and of two different ones exactly one goes before the other,
transitively. -/
structure OrdersList {α : Type} (before : α → α → Bool) (l : List α) : Prop where
  irrefl : ∀ x, before x x = false
  trans : ∀ x y z, before x y = true → before y z = true → before x z = true
  total : ∀ x ∈ l, ∀ y ∈ l, x = y ∨ before x y = true ∨ before y x = true

/-- How many of a list go before an element. -/
def rankIn {α : Type} (before : α → α → Bool) (l : List α) (x : α) : Nat := l.countP fun d => before d x

theorem rankIn_lt_rankIn {α : Type} {before : α → α → Bool} {l : List α} (h : OrdersList before l) {x y : α}
    (hx : x ∈ l) (hxy : before x y = true) : rankIn before l x < rankIn before l y := by
  obtain ⟨l1, l2, rfl⟩ := List.append_of_mem hx
  have hmono (m : List α) : m.countP (before · x) ≤ m.countP (before · y) :=
    List.countP_mono_left fun d _ hd => h.trans d x y hd hxy
  have h1 := hmono l1
  have h2 := hmono l2
  simp only [rankIn, List.countP_append, List.countP_cons, h.irrefl x, hxy, Bool.false_eq_true, if_false, if_true]
  omega

/-- An element of no smaller rank goes after, or is the same. -/
theorem before_of_rankIn_lt {α : Type} {before : α → α → Bool} {l : List α} (h : OrdersList before l) {x y : α}
    (hx : x ∈ l) (hy : y ∈ l) (hlt : rankIn before l x < rankIn before l y) : before x y = true := by
  rcases h.total x hx y hy with rfl | hxy | hyx
  · omega
  · exact hxy
  · have := rankIn_lt_rankIn h hy hyx
    omega

theorem rankIn_lt_length {α : Type} {before : α → α → Bool} {l : List α} (h : OrdersList before l) {x : α}
    (hx : x ∈ l) : rankIn before l x < l.length := by
  obtain ⟨l1, l2, rfl⟩ := List.append_of_mem hx
  have h1 := List.countP_le_length (p := (before · x)) (l := l1)
  have h2 := List.countP_le_length (p := (before · x)) (l := l2)
  simp only [rankIn, List.countP_append, List.countP_cons, h.irrefl x, Bool.false_eq_true, if_false,
    List.length_append, List.length_cons]
  omega

/-- The ranks in a list without repetition are the numbers below its length. -/
theorem ranks_perm_range {α : Type} {before : α → α → Bool} {l : List α} (h : OrdersList before l) (hn : l.Nodup) :
    (l.map (rankIn before l)).Perm (List.range l.length) := by
  have hinj : ∀ x ∈ l, ∀ y ∈ l, rankIn before l x = rankIn before l y → x = y := fun x hx y hy he => by
    rcases h.total x hx y hy with hxy | hxy | hyx
    · exact hxy
    · have := rankIn_lt_rankIn h hx hxy
      omega
    · have := rankIn_lt_rankIn h hy hyx
      omega
  refine (List.Nodup.subperm (List.Nodup.map_on hinj hn) fun k hk => ?_).perm_of_length_le (by simp)
  obtain ⟨x, hx, rfl⟩ := List.mem_map.mp hk
  exact List.mem_range.mpr (rankIn_lt_length h hx)

theorem countP_range_lt (m n : Nat) : (List.range n).countP (· < m) = min m n := by
  induction n with
  | zero => simp
  | succ n ih =>
    rw [List.range_succ, List.countP_append, ih, List.countP_singleton]
    by_cases h : n < m <;> simp [h] <;> omega

/-- Of a list in such an order the elements of rank below m are m in number, or all (R54). -/
theorem length_filter_rankIn {α : Type} {before : α → α → Bool} {l : List α} (h : OrdersList before l)
    (hn : l.Nodup) (m : Nat) : (l.filter fun x => rankIn before l x < m).length = min m l.length := by
  rw [← countP_range_lt, ← (ranks_perm_range h hn).countP_eq, List.countP_map, List.countP_eq_length_filter]
  rfl

/-! ### Figures of a candidate -/

/-- The peak cell of n cells: the highest, the lowest cell among equals (R53). -/
theorem peakCell_spec (p : List Nat) (a : Nat) : ∀ n, 1 ≤ n →
    a ≤ peakCell p a n ∧ peakCell p a n < a + n
      ∧ (∀ k, a ≤ k → k < a + n → p.getD k 0 ≤ p.getD (peakCell p a n) 0)
      ∧ ∀ k, a ≤ k → k < peakCell p a n → p.getD k 0 < p.getD (peakCell p a n) 0
  | 0, h => by omega
  | 1, _ => by
    have e : peakCell p a 1 = a := by simp [peakCell]
    rw [e]
    refine ⟨le_rfl, by omega, fun k h1 h2 => ?_, fun k h1 h2 => by omega⟩
    rw [show k = a by omega]
  | n + 2, _ => by
    obtain ⟨h1, h2, h3, h4⟩ := peakCell_spec p a (n + 1) (by omega)
    unfold peakCell
    dsimp only
    generalize peakCell p a (n + 1) = b at *
    split
    · rename_i hlt
      refine ⟨by omega, by omega, fun k hk1 hk2 => ?_, fun k hk1 hk2 => ?_⟩
      · by_cases hk : k = a + (n + 1)
        · rw [hk]
        · exact (h3 k hk1 (by omega)).trans hlt.le
      · exact (h3 k hk1 (by omega)).trans_lt hlt
    · rename_i hge
      refine ⟨h1, by omega, fun k hk1 hk2 => ?_, h4⟩
      by_cases hk : k = a + (n + 1)
      · rw [hk]
        omega
      · exact h3 k hk1 (by omega)

/-- The greatest of n values from one of them that no other exceeds. -/
theorem foldl_max_eq (f : Nat → Nat) {n k : Nat} (hk : k < n) (hmax : ∀ j < n, f j ≤ f k) :
    (List.range n).foldl (fun m j => max m (f j)) 0 = f k := by
  have hle : ∀ m, m ≤ n → (List.range m).foldl (fun m j => max m (f j)) 0 ≤ f k := fun m => by
    induction m with
    | zero => simp
    | succ m ih =>
      intro hm
      rw [List.range_succ, List.foldl_append, List.foldl_cons, List.foldl_nil]
      exact max_le (ih (by omega)) (hmax m (by omega))
  have hge : ∀ m, k < m → f k ≤ (List.range m).foldl (fun m j => max m (f j)) 0 := fun m => by
    induction m with
    | zero => omega
    | succ m ih =>
      intro hm
      rw [List.range_succ, List.foldl_append, List.foldl_cons, List.foldl_nil]
      by_cases h : k = m
      · exact h ▸ le_max_right _ _
      · exact (ih (by omega)).trans (le_max_left _ _)
  exact le_antisymm (hle n le_rfl) (hge n hk)

/-- The left edge lies within the cell before the run's first, or at it (R50, R52). -/
theorem leftEdge_le {t n : Nat} {p : List Nat} {r : BrightRun} (h : IsRun t (p.getD · 0) n r.first r.last) :
    leftEdge t p r ≤ 16 * r.first := by
  unfold leftEdge
  split
  · omega
  · rename_i h0
    have h1 := h.starts.resolve_left h0
    have h2 := h.bright r.first le_rfl h.le
    dsimp only at h1 h2 ⊢
    have : 16 * (t - p.getD (r.first - 1) 0) / (p.getD r.first 0 - p.getD (r.first - 1) 0) ≤ 16 :=
      Nat.div_le_of_le_mul (by rw [Nat.mul_comm]; exact Nat.mul_le_mul_right _ (by omega))
    omega

/-- The right edge lies within the run's last cell, or at its end (R51, R52). -/
theorem rightEdge_bounds {t : Nat} {p : List Nat} {r : BrightRun} (h : IsRun t (p.getD · 0) 2048 r.first r.last) :
    16 * r.last ≤ rightEdge t p r ∧ rightEdge t p r ≤ 32767 := by
  have hlt := h.lt
  unfold rightEdge
  simp only [Config.cells]
  split
  · omega
  · rename_i h0
    have h1 := h.ends.resolve_left (by omega)
    have h2 := h.bright r.last h.le le_rfl
    have : 16 * (p.getD r.last 0 - t) / (p.getD r.last 0 - p.getD (r.last + 1) 0) ≤ 16 :=
      Nat.div_le_of_le_mul (by rw [Nat.mul_comm]; exact Nat.mul_le_mul_right _ (by omega))
    generalize 16 * (p.getD r.last 0 - t) / (p.getD r.last 0 - p.getD (r.last + 1) 0) = q at this ⊢
    omega

end Sys2Proof.Machine
end

section
/-! SUPPORT. The candidates of a lit row: which runs give them, their figures, and which of them are kept. -/

namespace Sys2Proof.Machine

section
variable (cfg : Startup) (background : List Sample) (row : RowInProcess)

/-- Cells a to b are a run of the processed row that the search finds (R49, R55, R56). -/
def FoundRun (a b : Nat) : Prop :=
  let p (i : Nat) : Nat := (cleanRow cfg background row.cells).getD i 0
  a ≤ b ∧ b < 2048 ∧ (∀ j, a ≤ j → j ≤ b → cfg.tDet ≤ p j) ∧ (a = 0 ∨ p (a - 1) < cfg.tDet)
    ∧ (b = 2047 ∨ p (b + 1) < cfg.tDet)
    ∧ (row.cls = .full ∨ ∃ j, a ≤ j ∧ j ≤ b ∧ ∃ g ∈ row.gates,
        ((cfg.mountOffset + ((j : Int) - 1024) * 250 - g.x).natAbs : Int) ≤ g.width)

/-- The runs that the search finds. -/
def foundRuns : List BrightRun :=
  (brightRuns cfg.tDet (cleanRow cfg background row.cells)).filter (isFound cfg.mountOffset row)

/-- The candidate runs among them, each with its candidate. -/
def runCandidates : List (BrightRun × Candidate) :=
  ((foundRuns cfg background row).filter BrightRun.isCandidate).map fun r =>
    (r, candidateOf cfg.tDet (cleanRow cfg background row.cells) row.cells r)

/-- What the search gives, by the runs it finds. -/
theorem searchRow_eq :
    searchRow cfg background row =
      (cleanRow cfg background row.cells, (keepBest (runCandidates cfg background row)).map (·.2),
        (foundRuns cfg background row).any BrightRun.isWide
          || (keepBest (runCandidates cfg background row)).length < (runCandidates cfg background row).length) := rfl

end

/-! ### The runs found -/

section
variable {cfg : Startup} {background : List Sample} {row : RowInProcess}

theorem isSearched_iff (mount : Int) (gates : List Gate) (i : Nat) :
    isSearched mount gates i = true ↔
      ∃ g ∈ gates, ((mount + ((i : Int) - 1024) * 250 - g.x).natAbs : Int) ≤ g.width := by
  simp [isSearched]

theorem isFound_iff (mount : Int) {r : BrightRun} (hr : r.first ≤ r.last) :
    isFound mount row r = true ↔ row.cls = .full ∨ ∃ j, r.first ≤ j ∧ j ≤ r.last ∧ ∃ g ∈ row.gates,
      ((mount + ((j : Int) - 1024) * 250 - g.x).natAbs : Int) ≤ g.width := by
  simp only [isFound, Bool.or_eq_true, beq_iff_eq, List.any_eq_true, List.mem_range, isSearched_iff]
  refine or_congr_right ⟨?_, ?_⟩
  · rintro ⟨k, hk, hg⟩
    unfold BrightRun.length at hk
    exact ⟨r.first + k, by omega, by omega, hg⟩
  · rintro ⟨j, h1, h2, hg⟩
    refine ⟨j - r.first, by unfold BrightRun.length; omega, ?_⟩
    rw [show r.first + (j - r.first) = j by omega]
    exact hg

theorem FoundRun.isRun {a b : Nat} (h : FoundRun cfg background row a b) :
    IsRun cfg.tDet ((cleanRow cfg background row.cells).getD · 0) 2048 a b := by
  obtain ⟨hle, hlt, hb, hs, he, -⟩ := h
  exact ⟨hle, hlt, hb, hs, he.imp_left fun h => by omega⟩

/-- The search finds exactly the runs of R49 and R56. -/
theorem mem_foundRuns (hlen : row.cells.length = 2048) {r : BrightRun} :
    r ∈ foundRuns cfg background row ↔ FoundRun cfg background row r.first r.last := by
  unfold foundRuns
  rw [List.mem_filter, mem_brightRuns, cleanRow_length, hlen]
  constructor
  · rintro ⟨hr, hf⟩
    exact ⟨hr.le, hr.lt, hr.bright, hr.starts, hr.ends.imp_left fun h => by omega,
      (isFound_iff cfg.mountOffset hr.le).mp hf⟩
  · intro h
    have hr := h.isRun
    obtain ⟨-, -, -, -, -, hf⟩ := h
    exact ⟨hr, (isFound_iff cfg.mountOffset hr.le).mpr hf⟩

theorem foundRuns_sorted : (foundRuns cfg background row).Pairwise fun r q => r.first < q.first :=
  (brightRuns_sorted _ _).filter _

theorem isCandidate_iff {r : BrightRun} (h : r.first ≤ r.last) :
    r.isCandidate = true ↔ r.first < r.last ∧ r.last - r.first < 160 := by
  simp only [BrightRun.isCandidate, Bool.and_eq_true, decide_eq_true_eq]
  unfold BrightRun.length
  omega

theorem isWide_iff {r : BrightRun} : r.isWide = true ↔ 160 ≤ r.last - r.first := by
  simp only [BrightRun.isWide, decide_eq_true_eq]
  unfold BrightRun.length
  omega

/-- Some run found is a wide return (R49). -/
theorem any_isWide_iff (hlen : row.cells.length = 2048) :
    (foundRuns cfg background row).any BrightRun.isWide = true ↔
      ∃ a b, FoundRun cfg background row a b ∧ 160 ≤ b - a := by
  simp only [List.any_eq_true, mem_foundRuns hlen, isWide_iff]
  exact ⟨fun ⟨r, hr, hw⟩ => ⟨r.first, r.last, hr, hw⟩, fun ⟨a, b, hr, hw⟩ => ⟨⟨a, b⟩, hr, hw⟩⟩

/-! ### The candidates -/

theorem mem_runCandidates (hlen : row.cells.length = 2048) {x : BrightRun × Candidate} :
    x ∈ runCandidates cfg background row ↔
      (FoundRun cfg background row x.1.first x.1.last ∧ x.1.first < x.1.last ∧ x.1.last - x.1.first < 160)
        ∧ x.2 = candidateOf cfg.tDet (cleanRow cfg background row.cells) row.cells x.1 := by
  obtain ⟨r, c⟩ := x
  simp only [runCandidates, List.mem_map, List.mem_filter, mem_foundRuns hlen, Prod.mk.injEq]
  constructor
  · rintro ⟨r, ⟨hr, hc⟩, rfl, rfl⟩
    exact ⟨⟨hr, (isCandidate_iff hr.isRun.le).mp hc⟩, rfl⟩
  · rintro ⟨⟨hr, hc⟩, rfl⟩
    exact ⟨r, ⟨hr, (isCandidate_iff hr.isRun.le).mpr hc⟩, rfl, rfl⟩

theorem runCandidates_sorted :
    (runCandidates cfg background row).Pairwise fun x y => x.1.first < y.1.first := by
  unfold runCandidates
  rw [List.pairwise_map]
  exact foundRuns_sorted.filter _

theorem runCandidates_nodup : (runCandidates cfg background row).Nodup :=
  runCandidates_sorted.imp fun h e => by rw [e] at h; exact lt_irrefl _ h

theorem keptBefore_iff (x y : BrightRun × Candidate) :
    keptBefore x y = true ↔ y.2.peak < x.2.peak ∨ x.2.peak = y.2.peak ∧ x.1.first < y.1.first := by
  simp [keptBefore]

/-- The higher peak, then the lower first cell: an order of candidates whose first cells differ (R54). -/
theorem keptBefore_orders {cs : List (BrightRun × Candidate)} (h : cs.Pairwise fun x y => x.1.first < y.1.first) :
    OrdersList keptBefore cs := by
  refine ⟨fun x => ?_, fun x y z hxy hyz => ?_, fun x hx y hy => ?_⟩
  · rw [← Bool.not_eq_true, keptBefore_iff]
    omega
  · rw [keptBefore_iff] at *
    omega
  · have hfirst : x = y ∨ x.1.first ≠ y.1.first :=
      List.Pairwise.forall_of_forall_of_flip (R := fun x y => x = y ∨ x.1.first ≠ y.1.first) (fun _ _ => .inl rfl)
        (h.imp fun h => .inr h.ne) (h.imp fun h => .inr h.ne') hx hy
    rw [keptBefore_iff, keptBefore_iff]
    refine hfirst.imp_right fun h => ?_
    omega

theorem mem_keepBest {cs : List (BrightRun × Candidate)} {x : BrightRun × Candidate} :
    x ∈ keepBest cs ↔ x ∈ cs ∧ rankIn keptBefore cs x < 8 := by
  simp [keepBest, rankIn]

/-- Eight candidates are kept, or all (R54). -/
theorem keepBest_length {cs : List (BrightRun × Candidate)} (h : cs.Pairwise fun x y => x.1.first < y.1.first) :
    (keepBest cs).length = min 8 cs.length :=
  length_filter_rankIn (keptBefore_orders h) (h.imp fun h e => by rw [e] at h; exact lt_irrefl _ h) 8

/-- One that is kept goes before one that is not (R54). -/
theorem keepBest_before {cs : List (BrightRun × Candidate)} (h : cs.Pairwise fun x y => x.1.first < y.1.first)
    {x y : BrightRun × Candidate} (hx : x ∈ keepBest cs) (hy : y ∈ cs) (hny : y ∉ keepBest cs) :
    y.2.peak < x.2.peak ∨ y.2.peak = x.2.peak ∧ x.1.first < y.1.first := by
  rw [mem_keepBest] at hx hny
  obtain ⟨hx, hrx⟩ := hx
  have hlt : rankIn keptBefore cs x < rankIn keptBefore cs y := hrx.trans_le (Nat.not_lt.mp fun h => hny ⟨hy, h⟩)
  have := (keptBefore_iff x y).mp (before_of_rankIn_lt (keptBefore_orders h) hx hy hlt)
  omega

/-! ### Figures -/

/-- The cell in which the candidate of a run peaks (R53). -/
theorem candidateOf_peak {a b : Nat} (h : FoundRun cfg background row a b) (hlen : row.cells.length = 2048) :
    let p (i : Nat) : Nat := (cleanRow cfg background row.cells).getD i 0
    let c := candidateOf cfg.tDet (cleanRow cfg background row.cells) row.cells ⟨a, b⟩
    ∃ j d, a ≤ j ∧ j ≤ b ∧ c.peak = p j ∧ row.cells[j]? = some d ∧ c.height = d.height.toNat
      ∧ (∀ k, a ≤ k → k ≤ b → p k ≤ p j) ∧ ∀ k, a ≤ k → k < j → p k < p j := by
  intro p c
  have hr := h.isRun
  have hle := hr.le
  have hlt := hr.lt
  obtain ⟨h1, h2, h3, h4⟩ := peakCell_spec (cleanRow cfg background row.cells) a (BrightRun.length ⟨a, b⟩)
    (Nat.le_add_left 1 _)
  have hend : a + BrightRun.length ⟨a, b⟩ = b + 1 := by
    show a + (b - a + 1) = b + 1
    omega
  rw [hend] at h2 h3
  have hj : peakCell (cleanRow cfg background row.cells) a (BrightRun.length ⟨a, b⟩) < row.cells.length := by omega
  refine ⟨_, _, h1, by omega, rfl, List.getElem?_eq_getElem hj, ?_, fun k hk1 hk2 => h3 k hk1 (by omega), h4⟩
  show ((row.cells[_]?).map _).getD 0 = _
  rw [List.getElem?_eq_getElem hj]
  rfl

/-- The peak of a run is the greatest of its cells (R53). -/
theorem runPeak_eq {a b : Nat} (h : FoundRun cfg background row a b) (hlen : row.cells.length = 2048) :
    (List.range (b + 1 - a)).foldl (fun m k => max m ((cleanRow cfg background row.cells).getD (a + k) 0)) 0 =
      (candidateOf cfg.tDet (cleanRow cfg background row.cells) row.cells ⟨a, b⟩).peak := by
  obtain ⟨j, d, h1, h2, hpeak, -, -, hmax, -⟩ := candidateOf_peak h hlen
  rw [hpeak, foldl_max_eq (fun k => (cleanRow cfg background row.cells).getD (a + k) 0) (k := j - a) (by omega)
    fun k hk => ?_]
  · rw [show a + (j - a) = j by omega]
  · rw [show a + (j - a) = j by omega]
    exact hmax _ (by omega) (by omega)

/-- The figures of a candidate lie in their ranges (R49 to R54). -/
theorem candidateOf_ranges {a b : Nat} (h : FoundRun cfg background row a b) (hlen : row.cells.length = 2048)
    (ht : 1 ≤ cfg.tDet) :
    let c := candidateOf cfg.tDet (cleanRow cfg background row.cells) row.cells ⟨a, b⟩
    c.left ≤ c.centre ∧ c.centre ≤ c.right ∧ c.right ≤ 32767 ∧ c.centre = (c.left + c.right) / 2
      ∧ cfg.tDet ≤ c.peak ∧ c.peak ≤ 4095 ∧ cfg.bandLow ≤ c.height ∧ c.height ≤ cfg.bandHigh ∧ 1 ≤ c.height := by
  intro c
  have hr := h.isRun
  obtain ⟨j, d, h1, h2, hpeak, hd, hheight, -, -⟩ := candidateOf_peak h hlen
  have hleft : c.left ≤ 16 * a := leftEdge_le (r := ⟨a, b⟩) hr
  obtain ⟨hright, hmax⟩ : 16 * b ≤ c.right ∧ c.right ≤ 32767 := rightEdge_bounds (r := ⟨a, b⟩) hr
  have hcentre : c.centre = (c.left + c.right) / 2 := rfl
  have hle := hr.le
  have hp : c.peak = cleanCell cfg (background.getD j 0) j d := by
    refine hpeak.trans ?_
    show (cleanRow cfg background row.cells).getD j 0 = _
    rw [List.getD_eq_getElem?_getD, cleanRow_getElem? cfg background hd]
    rfl
  have hbright : cfg.tDet ≤ c.peak := by
    rw [hpeak]
    exact hr.bright j h1 h2
  have hband : InBand cfg j d := by
    by_contra hn
    rw [cleanCell_of_not_inBand _ hn] at hp
    omega
  rw [InBand, not_or, not_or, not_or, height_eq_zero_iff] at hband
  obtain ⟨-, hpos, hlow, hhigh⟩ := hband
  have hpeak' : c.peak ≤ 4095 := hp ▸ cleanCell_le cfg _ j d
  have hh : c.height = d.height.toNat := hheight
  refine ⟨?_, ?_, hmax, hcentre, hbright, hpeak', ?_, ?_, ?_⟩ <;> omega

end

/-- The first and the last cell of a run. -/
def BrightRun.cells (r : BrightRun) : Nat × Nat := (r.first, r.last)

/-- Settles O29: the runs are those found, the candidates those of the best of them, and their figures in range. -/
theorem candidatesWellFormed : Obligations.CandidatesWellFormed := by
  intro cfg background row hlen ht p isFound peak gives found
  let cs := runCandidates cfg background row
  have hsorted : cs.Pairwise fun x y => x.1.first < y.1.first := runCandidates_sorted
  have hlength := keepBest_length hsorted
  have hmem {x : BrightRun × Candidate} (hx : x ∈ cs) := (mem_runCandidates hlen).mp hx
  have hkept {x : BrightRun × Candidate} (hx : x ∈ keepBest cs) := hmem (mem_keepBest.mp hx).1
  have hpeak {x : BrightRun × Candidate} (hx : x ∈ cs) : peak x.1.cells = x.2.peak := by
    obtain ⟨⟨hf, -⟩, hc⟩ := hmem hx
    rw [hc]
    exact runPeak_eq hf hlen
  have hcands : found.2.1 = (keepBest cs).map (·.2) := rfl
  refine ⟨?_, fun c hc => ?_, cs.map (·.1.cells), (keepBest cs).map (·.1.cells), ?_, fun r => ?_, ?_, ?_, ?_,
    fun r hr q hq hnq => ?_, ?_⟩
  · rw [hcands, List.length_map, hlength]
    exact min_le_left _ _
  · rw [hcands, List.mem_map] at hc
    obtain ⟨x, hx, rfl⟩ := hc
    obtain ⟨⟨hf, -⟩, hc⟩ := hkept hx
    rw [hc]
    exact candidateOf_ranges hf hlen ht
  · rw [List.pairwise_map]
    exact hsorted
  · rw [List.mem_map]
    constructor
    · rintro ⟨x, hx, rfl⟩
      exact (hmem hx).1
    · intro h
      exact ⟨(⟨r.1, r.2⟩, candidateOf cfg.tDet (cleanRow cfg background row.cells) row.cells ⟨r.1, r.2⟩),
        (mem_runCandidates hlen).mpr ⟨h, rfl⟩, rfl⟩
  · have htrunc : found.2.2 = ((foundRuns cfg background row).any BrightRun.isWide
        || decide ((keepBest cs).length < cs.length)) := rfl
    rw [htrunc, Bool.or_eq_true, any_isWide_iff hlen, decide_eq_true_eq, hlength, List.length_map, or_comm]
    refine or_congr_left ?_
    omega
  · exact List.filter_sublist.map _
  · rw [List.length_map, List.length_map, hlength]
  · obtain ⟨x, hx, rfl⟩ := List.mem_map.mp hr
    obtain ⟨y, hy, rfl⟩ := List.mem_map.mp hq
    rw [hpeak (mem_keepBest.mp hx).1, hpeak hy]
    exact keepBest_before hsorted hx hy fun h => hnq (List.mem_map_of_mem h)
  · rw [hcands, List.forall₂_map_left_iff, List.forall₂_map_right_iff, List.forall₂_same]
    intro x hx
    obtain ⟨⟨hf, -⟩, hc⟩ := hkept hx
    rw [hc]
    exact ⟨rfl, rfl, rfl, candidateOf_peak hf hlen⟩

end Sys2Proof.Machine
end

section
/-! SUPPORT. The Load Governor: the rule that decides the keep factor, and the keep pattern over a group of frames. -/

namespace Sys2Proof.Machine

/-! ### The rule that decides -/

/-- A rule holds when it is enabled and its source has reached its threshold (R59, R60). -/
theorem ruleHolds_iff (fill rate : Nat) (r : GovernorRule) :
    ruleHolds fill rate r = true ↔ r.enabled = true ∧ r.threshold ≤ if r.source = 0 then fill else rate := by
  simp [ruleHolds]

/-- With no rule that holds the keep factor is 8 (R60). -/
theorem keepFactor_of_none {rules : List GovernorRule} {fill rate : Nat}
    (h : ∀ r ∈ rules, ¬ruleHolds fill rate r = true) : keepFactor rules fill rate = 8 := by
  rw [keepFactor, List.find?_eq_none.mpr h]
  rfl

/-- The first rule that holds decides, whatever comes after it (R60). -/
theorem keepFactor_of_first {before after : List GovernorRule} {r : GovernorRule} {fill rate : Nat}
    (hb : ∀ b ∈ before, ¬ruleHolds fill rate b = true) (hr : ruleHolds fill rate r = true) :
    keepFactor (before ++ r :: after) fill rate = r.keep := by
  rw [keepFactor, List.find?_append, List.find?_eq_none.mpr hb, List.find?_cons_of_pos hr]
  rfl

/-- The keep factor is 8 or that of one of the rules. -/
theorem keepFactor_cases (rules : List GovernorRule) (fill rate : Nat) :
    keepFactor rules fill rate = 8 ∨ ∃ r ∈ rules, keepFactor rules fill rate = r.keep := by
  unfold keepFactor
  cases h : rules.find? (ruleHolds fill rate) with
  | none => exact .inl rfl
  | some r => exact .inr ⟨r, List.mem_of_find?_eq_some h, rfl⟩

theorem keepFactor_range {rules : List GovernorRule} (h : ∀ r ∈ rules, 1 ≤ r.keep ∧ r.keep ≤ 8) (fill rate : Nat) :
    1 ≤ keepFactor rules fill rate ∧ keepFactor rules fill rate ≤ 8 := by
  obtain h8 | ⟨r, hr, hk⟩ := keepFactor_cases rules fill rate
  · rw [h8]
    decide
  · rw [hk]
    exact h r hr

/-- Settles O36: the evaluation sets `keepFactor`, which the first rule that holds decides. -/
theorem governorTakesFirstRuleThatHolds : Obligations.GovernorTakesFirstRuleThatHolds := by
  intro cfg s holds
  have hholds (r : GovernorRule) : ruleHolds s.fe.queue.length s.du.rateLast r = true ↔ holds r :=
    ruleHolds_iff _ _ r
  refine ⟨keepFactor cfg.rules s.fe.queue.length s.du.rateLast, rfl, fun h => ?_, fun h => keepFactor_range h _ _,
    fun before r after heq hb hr => ?_⟩
  · exact keepFactor_of_none fun r hr => mt (hholds r).mp (h r hr)
  · rw [heq]
    exact keepFactor_of_first (fun b hbm => mt (hholds b).mp (hb b hbm)) ((hholds r).mpr hr)

/-! ### The keep pattern -/

/-- The class of a frame of a group of 32 goes by its place in the group alone: the table of R65 repeats every 8. -/
theorem frameClass_of_group (n j k : Nat) :
    frameClass (BitVec.ofNat 32 (32 * n + j)) k = frameClass (BitVec.ofNat 32 j) k := by
  have hmod : (BitVec.ofNat 32 (32 * n + j)).toNat % 8 = (BitVec.ofNat 32 j).toNat % 8 := by
    simp only [BitVec.toNat_ofNat]
    omega
  rw [frameClass_eq, frameClass_eq, hmod]

/-- Settles O35: the class as a formula, and the table worked out on the group that begins at frame 0. -/
theorem keepPatternTable : Obligations.KeepPatternTable := by
  refine ⟨frameClass_eq, fun n _ => ?_⟩
  simp only [frameClass_of_group]
  refine ⟨by decide, by decide, by decide, by decide, by decide, by decide, by decide, by decide, fun k h1 h8 => ?_⟩
  interval_cases k <;> decide

end Sys2Proof.Machine
end

section
/-! SUPPORT. The keep factor and the Exposure Controller in their ranges: what sets them, and which commands leave them
alone. -/

namespace Sys2Proof.Machine

/-! ### What the ranges speak of -/

/-- The part of a state that the ranges of keep factor and Exposure Controller speak of. -/
structure Settings where
  keep : Nat
  currentSlot : Nat
  pendingSlot : Option Nat
  settleCount : Nat
  strayStreak : Nat
  part : PartState

def State.settings (s : State) : Settings :=
  ⟨s.keep, s.ec.currentSlot, s.ec.pendingSlot, s.ec.settleCount, s.ec.strayStreak, s.src.part⟩

/-- The keep factor and the Exposure Controller are in range in `t` if they are in `s`. -/
def RangesKept (s t : State) : Prop := s.KeepInRange ∧ s.SlotInRange → t.KeepInRange ∧ t.SlotInRange

theorem RangesKept.refl (s : State) : RangesKept s s := id

theorem RangesKept.trans {a b c : State} (h1 : RangesKept a b) (h2 : RangesKept b c) : RangesKept a c := h2 ∘ h1

theorem RangesKept.of_settings {s t : State} (h : t.settings = s.settings) : RangesKept s t := by
  simp only [State.settings, Settings.mk.injEq] at h
  obtain ⟨hkeep, hcurrent, hpending, hsettle, hstreak, hpart⟩ := h
  rintro ⟨⟨hk, hr⟩, ⟨hc, hp, hse, hst, ha⟩⟩
  exact ⟨⟨hkeep ▸ hk, hpart ▸ hr⟩, ⟨hcurrent ▸ hc, hpending ▸ hp, hsettle ▸ hse, hstreak ▸ hst, hpart ▸ ha⟩⟩

theorem RangesKept.of_ec {s t : State} (hkeep : t.keep = s.keep) (hec : t.ec = s.ec) (hpart : t.src.part = s.src.part) :
    RangesKept s t := .of_settings (by rw [State.settings, hkeep, hec, hpart]; rfl)

theorem RangesKept.ite {s t : State} {c : Prop} [Decidable c] (h : RangesKept s t) :
    RangesKept s (if c then t else s) := by
  split
  · exact h
  · exact .refl s

theorem foldl_rangesKept {β : Type} (f : State → β → State) (h : ∀ s b, RangesKept s (f s b)) (l : List β)
    (s : State) : RangesKept s (l.foldl f s) :=
  foldl_related RangesKept .refl (fun _ _ _ => .trans) f h l s

/-! ### Triggers and due events -/

/-- A frame trigger sets the keep factor by the rules in force, makes a pending slot current and counts the settling
down (R28, R29, R63, R64). -/
theorem frameTrigger_rangesKept {cfg : Startup} {s : State} (hp : s.src.part = .operating cfg) :
    RangesKept s (frameTrigger cfg s) := by
  rintro ⟨⟨hkeep, hrules⟩, ⟨hcurrent, hpending, hsettle, hstreak, haccepted⟩⟩
  have hframe := (frameTrigger_frame cfg s).1
  have hec : (frameTrigger cfg s).ec = { triggerSlot s.ec with cycle := (frameTrigger cfg s).ec.cycle } := by
    rw [hframe]; rfl
  have hpart : (frameTrigger cfg s).src.part = s.src.part := (frameTrigger_exposureKept cfg s).part
  refine ⟨⟨?_, hpart ▸ hrules⟩, ⟨?_, ?_, ?_, ?_, hpart ▸ haccepted⟩⟩
  · rw [frameTrigger_keep]
    split
    · exact keepFactor_range (hrules cfg hp) _ _
    · exact hkeep
  · rw [hec]
    show s.ec.pendingSlot.getD s.ec.currentSlot ≤ 3
    cases hslot : s.ec.pendingSlot with
    | none => exact hcurrent
    | some p => exact hpending p hslot
  · rw [hec]
    intro p h
    cases h
  · rw [hec]
    show (if s.ec.state = .settling then s.ec.settleCount - 1 else s.ec.settleCount) ≤ 64
    split <;> omega
  · rw [hec]
    exact hstreak

theorem takeTrigger_rangesKept {cfg : Startup} {s : State} (hp : s.src.part = .operating cfg) :
    RangesKept s (takeTrigger cfg s) := (frameTrigger_rangesKept hp).ite

theorem takeReclaim_rangesKept (cfg : Startup) (s : State) (i : Nat) : RangesKept s (takeReclaim cfg s i) :=
  .of_ec (by simp) (by simp) (by simp)

theorem takeAbsent_rangesKept (cfg : Startup) (s : State) (t : Nat) : RangesKept s (takeAbsent cfg s t) :=
  .of_ec (by simp) (by simp) (by simp)

theorem takeExpire_rangesKept (cfg : Startup) (s : State) (t : Nat) : RangesKept s (takeExpire cfg s t) :=
  .of_ec (by simp) (by simp) (by simp)

theorem takeSettleEnd_rangesKept (s : State) : RangesKept s (takeSettleEnd s) := RangesKept.ite (.of_settings rfl)

theorem takeHeld_rangesKept (s : State) : RangesKept s (takeHeld s) := .of_ec (by simp) (by simp) (by simp)

theorem takeLost_rangesKept (s : State) : RangesKept s (takeLost s) := .of_ec (by simp) (by simp) (by simp)

theorem takeAged_rangesKept (cfg : Startup) (s : State) : RangesKept s (takeAged cfg s) :=
  (foldl_rangesKept _ (takeReclaim_rangesKept cfg) _ s).trans
    ((foldl_rangesKept _ (takeAbsent_rangesKept cfg) _ _).trans
      ((foldl_rangesKept _ (takeExpire_rangesKept cfg) _ _).trans
        ((takeSettleEnd_rangesKept _).trans ((takeHeld_rangesKept _).trans (takeLost_rangesKept _)))))

theorem catchUp_rangesKept (s : State) : RangesKept s (catchUp s) := by
  unfold catchUp
  split
  · rename_i cfg hp
    exact (takeTrigger_rangesKept hp).trans (takeAged_rangesKept cfg _)
  · exact .refl s

theorem catchTrigger_rangesKept (s : State) : RangesKept s (catchTrigger s) := by
  unfold catchTrigger
  split
  · rename_i cfg hp
    exact takeTrigger_rangesKept hp
  · exact .refl s

/-! ### Rows -/

/-- A hop leaves a slot of 0 to 3 pending and the settle count at 64 (R27, R29, R31). -/
theorem interference_rangesKept (cfg : Startup) (s : State) : RangesKept s (interference cfg s) := by
  unfold interference
  dsimp only
  split
  · rintro ⟨⟨hkeep, hrules⟩, ⟨hcurrent, -, -, hstreak, haccepted⟩⟩
    refine ⟨⟨hkeep, hrules⟩, ⟨hcurrent, fun p h => ?_, le_rfl, hstreak, haccepted⟩⟩
    obtain rfl : chooseSlot cfg s = p := Option.some.inj h
    exact (chooseSlot_least cfg s).1
  · exact .of_settings rfl

/-- The streak of stray dark rows is 0 or 1 (R23, R24). -/
theorem takeStrayCount_rangesKept (cfg : Startup) (n : Nat) (s : State) : RangesKept s (takeStrayCount cfg n s) := by
  have hstreak {k : Nat} (hk : k ≤ 1) : RangesKept s (s.setEc { s.ec with strayStreak := k }) :=
    fun ⟨⟨hkeep, hrules⟩, ⟨hcurrent, hpending, hsettle, _, haccepted⟩⟩ =>
      ⟨⟨hkeep, hrules⟩, ⟨hcurrent, hpending, hsettle, hk, haccepted⟩⟩
  unfold takeStrayCount
  split
  · exact hstreak (Nat.zero_le 1)
  · split
    · exact hstreak le_rfl
    · exact (hstreak (Nat.zero_le 1)).trans (interference_rangesKept cfg _)

theorem finishDarkRow_rangesKept (cfg : Startup) (row : RowInProcess) (s : State) :
    RangesKept s (finishDarkRow cfg row s) :=
  (takeStrayCount_rangesKept cfg (strayCount cfg row.cells) s).trans
    (.of_ec (by simp [finishDarkRow]) (by simp [finishDarkRow]) (by simp [finishDarkRow]))

theorem associateRow_rangesKept (cfg : Startup) (row : RowInProcess) (s : State) :
    RangesKept s (associateRow cfg row s) :=
  .of_ec (by simp [associateRow]) (by simp [associateRow]) (by simp [associateRow])

/-! ### Telegrams -/

theorem judgeRun_rangesKept (cfg : Startup) (t : RxTelegram) (s : State) : RangesKept s (judgeRun cfg t s) := by
  have hset (run : Word16) (st : RunState) (cls : Nat) : RangesKept s (takeRun cfg run st cls s) := by
    unfold takeRun
    dsimp only
    split
    · split <;> exact .of_ec (by simp) (by simp) (by simp)
    · exact .of_settings rfl
  unfold judgeRun
  dsimp only
  split
  · exact (hset _ _ _).ite
  · exact .refl s

theorem takeAttitude_rangesKept (cfg : Startup) (t : RxTelegram) (s : State) : RangesKept s (takeAttitude cfg t s) :=
  .of_settings rfl

theorem writeNeighbour_rangesKept (cfg : Startup) (t : RxTelegram) (s : State) :
    RangesKept s (writeNeighbour cfg t s) :=
  .of_ec (by simp [writeNeighbour]) (by simp [writeNeighbour]) (by simp [writeNeighbour])

theorem adoptInPlace_rangesKept (i : Nat) (e : Entry) (o : Origin) (rate : Int) (s : State) :
    RangesKept s (adoptInPlace i e o rate s) := by
  unfold adoptInPlace
  dsimp only
  split
  · split <;> exact .of_settings rfl
  · split <;> exact .of_settings rfl
  all_goals exact .of_ec (by simp) (by simp) (by simp)

theorem adoptNew_rangesKept (h : Handover) (o : Origin) (s : State) : RangesKept s (adoptNew h o s) := by
  unfold adoptNew
  split
  · rename_i i u hu
    exact .of_ec (by simp [makeRoom_keep _ _ _ _ hu]) (by simp [makeRoom_ec _ _ _ _ hu])
      (by simp [makeRoom_src _ _ _ _ hu])
  · exact .of_settings rfl

theorem takeHandover_rangesKept (cfg : Startup) (t : RxTelegram) (s : State) :
    RangesKept s (takeHandover cfg t s) := by
  unfold takeHandover
  refine RangesKept.ite ?_
  split
  · exact adoptInPlace_rangesKept _ _ _ _ s
  · exact adoptNew_rangesKept _ _ s

theorem checkDuplicate_rangesKept (cfg : Startup) (t : RxTelegram) (s : State) :
    RangesKept s (checkDuplicate cfg t s) := by
  have hyield (i : Nat) (e : Entry) : RangesKept s (yieldDuplicate i e s) :=
    .of_ec (by simp [yieldDuplicate]) (by simp [yieldDuplicate]) (by simp [yieldDuplicate])
  unfold checkDuplicate
  refine RangesKept.ite ?_
  split
  · exact (hyield _ _).ite
  · exact .refl s

theorem takeSighting_rangesKept (cfg : Startup) (t : RxTelegram) (s : State) :
    RangesKept s (takeSighting cfg t s) := by
  unfold takeSighting
  split
  · split
    · split
      · exact .of_ec (by simp) (by simp) (by simp)
      · exact .refl s
    · exact checkDuplicate_rangesKept cfg t s
  · exact checkDuplicate_rangesKept cfg t s

/-! ### The start-up block -/

theorem clampNat_range {lo hi : Nat} (h : lo ≤ hi) (x : Nat) : lo ≤ clampNat lo hi x ∧ clampNat lo hi x ≤ hi := by
  unfold clampNat
  split <;> [skip; split] <;> omega

theorem clampRule_keep (r : GovernorRule) : (clampRule r).keep = clampNat 1 8 r.keep := by
  unfold clampRule
  split <;> rfl

/-- Whatever the memory gave, the slot of the block as it is accepted is 0 to 3 (R198). -/
theorem acceptedOf_slot (block : List Byte) : (acceptedOf block).slot ≤ 3 := (clampNat_range (Nat.zero_le 3) _).2

/-- Whatever the memory gave, the rules of the block as it is accepted have keep factors of 1 to 8 (R198). -/
theorem acceptedOf_rules (block : List Byte) : ∀ r ∈ (acceptedOf block).rules, 1 ≤ r.keep ∧ r.keep ≤ 8 := by
  intro r hr
  obtain ⟨raw, -, rfl⟩ : ∃ raw ∈ (startupOf block).rules, clampRule raw = r := List.mem_map.mp hr
  rw [clampRule_keep]
  exact clampNat_range (by decide) _

theorem acceptBlock_rangesKept (block : List Byte) (s : State) : RangesKept s (acceptBlock (acceptedOf block) s) := by
  rintro ⟨⟨hkeep, -⟩, ⟨-, hpending, hsettle, hstreak, -⟩⟩
  refine ⟨⟨hkeep, fun cfg h => ?_⟩, ⟨acceptedOf_slot block, hpending, hsettle, hstreak, fun cfg h => ?_⟩⟩
  · obtain rfl : acceptedOf block = cfg := PartState.operating.inj h
    exact acceptedOf_rules block
  · obtain rfl : acceptedOf block = cfg := PartState.operating.inj h
    exact acceptedOf_slot block

/-- A part that is not OPERATING has no rules and no slot in force. -/
theorem setSrc_rangesKept (s : State) {u : StartupControl} (hu : u.part.isOperating = false) :
    RangesKept s (s.setSrc u) := by
  have hno (cfg : Startup) : u.part ≠ .operating cfg := fun h => by rw [h] at hu; cases hu
  rintro ⟨⟨hkeep, -⟩, ⟨hcurrent, hpending, hsettle, hstreak, -⟩⟩
  exact ⟨⟨hkeep, fun cfg h => absurd h (hno cfg)⟩,
    ⟨hcurrent, hpending, hsettle, hstreak, fun cfg h => absurd h (hno cfg)⟩⟩

theorem headstateDue_rangesKept (s : State) : RangesKept s (headstateDue s) := .of_ec (by simp) (by simp) (by simp)

theorem endLoading_rangesKept (block : List Byte) (s : State) : RangesKept s (endLoading block s) := by
  unfold endLoading
  split
  · exact (acceptBlock_rangesKept block s).trans (.of_ec (by simp) (by simp) (by simp))
  · exact (setSrc_rangesKept s rfl).trans (headstateDue_rangesKept _)

/-! ### The commands -/

theorem inOperating_rangesKept {act : Startup → State → State} (h : ∀ cfg s, RangesKept s (act cfg s)) (s : State) :
    RangesKept s (inOperating act s) := by
  unfold inOperating
  split
  · exact h _ s
  · exact .refl s

/-- What an action of an OPERATING part keeps, on what has been caught up. -/
theorem caughtUp_rangesKept {act : Startup → State → State} (h : ∀ cfg s, RangesKept s (act cfg s)) (s : State) :
    RangesKept s (inOperating act (catchUp s)) :=
  (catchUp_rangesKept s).trans (inOperating_rangesKept h _)

/-- What an action of a due event keeps, on the trigger that has been taken. -/
theorem triggered_rangesKept {act : Startup → State → State} (h : ∀ cfg s, RangesKept s (act cfg s)) (s : State) :
    RangesKept s (inOperating act (catchTrigger s)) :=
  (catchTrigger_rangesKept s).trans (inOperating_rangesKept h _)

/-- A telegram taken, on what has been caught up. -/
theorem caughtUp_takeTelegram_rangesKept {k : Kind} {act : Startup → RxTelegram → State → State}
    (h : ∀ cfg t s, RangesKept s (act cfg t s)) (s : State) : RangesKept s (takeTelegram k act (catchUp s)) := by
  refine (catchUp_rangesKept s).trans ?_
  unfold takeTelegram
  split
  · exact RangesKept.ite (.trans (b := freeBuffer (catchUp s)) (.of_settings rfl) (h _ _ _))
  · exact .refl _

theorem caughtUp_onLine_rangesKept (act : LinkController → LinkController) (s : State) :
    RangesKept s (onLine act (catchUp s)) := by
  refine (catchUp_rangesKept s).trans ?_
  unfold onLine
  split
  · exact .refl _
  · exact .of_settings rfl

theorem execLoading_rangesKept {c : Instr} {s t : State} (h : exec c s = .next t)
    (hc : (∃ straps, c = .resetEnd straps) ∨ c = .configReadStart ∨ (∃ levels, c = .configReadDone levels)
      ∨ c = .loadingEnd ∨ c = .headstateTimer) : RangesKept s t := by
  refine (catchUp_rangesKept s).trans ?_
  rcases hc with ⟨straps, rfl⟩ | rfl | ⟨levels, rfl⟩ | rfl | rfl
  · simp only [exec, execResetEnd] at h
    split at h <;> cases h
    · exact setSrc_rangesKept _ rfl
    · exact .refl _
  · simp only [exec, execConfigReadStart] at h
    split at h <;> cases h
    · exact setSrc_rangesKept _ rfl
    · exact .refl _
  · simp only [exec, execConfigReadDone] at h
    split at h <;> cases h
    · exact setSrc_rangesKept _ rfl
    · exact .refl _
  · simp only [exec, execLoadingEnd] at h
    split at h <;> cases h
    · exact endLoading_rangesKept _ _
    · exact .refl _
  · simp only [exec, execHeadstateTimer] at h
    split at h <;> cases h
    · exact headstateDue_rangesKept _
    · exact .refl _

theorem execSlotCycle_rangesKept {c : Instr} {s t : State} (h : exec c s = .next t)
    (hc : c = .slotCycleEnd ∨ c = .exposeRise ∨ c = .exposeFall) : RangesKept s t := by
  rcases hc with rfl | rfl | rfl <;> cases h <;> refine caughtUp_rangesKept (fun cfg s => ?_) s <;> split
  · exact RangesKept.ite (.of_settings rfl)
  · exact .refl s
  · exact RangesKept.ite (.of_settings (by simp [State.settings, beginExposure]))
  · exact .refl s
  · exact RangesKept.ite (.of_settings rfl)
  · exact .refl s

theorem execTravel_rangesKept {c : Instr} {s t : State} (h : exec c s = .next t)
    (hc : (∃ dir, c = .tick dir) ∨ c = .rateWindowEnd ∨ c = .pole) : RangesKept s t := by
  rcases hc with ⟨dir, rfl⟩ | rfl | rfl
  · refine (catchUp_rangesKept s).trans ?_
    simp only [exec, execTick, tickOperating, reversal] at h
    split at h <;> cases h
    · exact .refl _
    · split <;> exact .of_ec (by simp) (by simp) (by simp)
    · exact .of_settings rfl
  · refine (catchUp_rangesKept s).trans ?_
    simp only [exec, execRateWindowEnd] at h
    split at h <;> cases h <;> exact .of_settings rfl
  · cases h
    refine caughtUp_rangesKept (fun cfg s => ?_) s
    dsimp only
    split <;> exact .of_ec (by simp) (by simp) (by simp)

theorem execRows_rangesKept {c : Instr} {s t : State} (h : exec c s = .next t)
    (hc : c = .darkRowDone ∨ c = .rowAssociation ∨ c = .litRowEnd ∨ c = .wearComplete) : RangesKept s t := by
  rcases hc with rfl | rfl | rfl | rfl <;> cases h <;> refine caughtUp_rangesKept (fun cfg s => ?_) s <;> split
  · exact (finishDarkRow_rangesKept cfg _ s).ite
  · exact .refl s
  · exact (associateRow_rangesKept cfg _ s).ite
  · exact .refl s
  · exact RangesKept.ite (.of_ec (by simp) (by simp) (by simp))
  · exact .refl s
  · exact .of_ec (by simp) (by simp) (by simp)
  · exact .refl s

theorem execSensor_rangesKept {c : Instr} {s t : State} (h : exec c s = .next t)
    (hc : c = .srfRise ∨ ∃ nibbles, c = .rowArrival nibbles) : RangesKept s t := by
  refine (catchUp_rangesKept s).trans ?_
  rcases hc with rfl | ⟨nibbles, rfl⟩
  · simp only [exec, execSrfRise] at h
    split at h <;> cases h <;> exact .of_settings rfl
  · simp only [exec, execRowArrival] at h
    split at h <;> cases h
    · refine .trans (b := (catchUp s).setFe { (catchUp s).fe with receiving := false }) (.of_settings rfl)
        (inOperating_rangesKept (fun cfg s => ?_) _)
      split <;> exact .of_ec (by simp) (by simp) (by simp)
    · exact .refl _

theorem execTransmission_rangesKept {c : Instr} {s t : State} (h : exec c s = .next t)
    (hc : c = .transmitError ∨ c = .transmitComplete ∨ c = .telegramDiscard) : RangesKept s t := by
  refine (catchUp_rangesKept s).trans ?_
  rcases hc with rfl | rfl | rfl
  · cases h
    exact RangesKept.ite (.of_settings (by simp [State.settings, loseTransmission]))
  · cases h
    exact RangesKept.ite (.of_settings (by simp [State.settings, completeTransmission]))
  · simp only [exec, execTelegramDiscard] at h
    split at h <;> cases h <;> exact .of_settings rfl

/-- RESET sets the keep factor to 8 and the Exposure Controller to no slot pending (R13, R34, R59). -/
theorem reset_inRange (p : List Instr) :
    (State.reset.setPending p).KeepInRange ∧ (State.reset.setPending p).SlotInRange := by
  refine ⟨⟨⟨?_, le_rfl⟩, fun _ h => ?_⟩, ⟨Nat.zero_le 3, fun _ h => ?_, Nat.zero_le 64, Nat.zero_le 1, fun _ h => ?_⟩⟩
  · show 1 ≤ 8
    decide
  all_goals cases h

theorem exec_rangesKept {c : Instr} {s t : State} (h : exec c s = .next t) : RangesKept s t := by
  cases c with
  | reset => cases h; exact fun _ => reset_inRange s.pending
  | resetEnd _ | configReadStart | configReadDone _ | loadingEnd | headstateTimer =>
    exact execLoading_rangesKept h (by simp)
  | tick _ | rateWindowEnd | pole => exact execTravel_rangesKept h (by simp)
  | slotCycleEnd | exposeRise | exposeFall => exact execSlotCycle_rangesKept h (by simp)
  | srfRise | rowArrival _ => exact execSensor_rangesKept h (by simp)
  | darkRowDone | rowAssociation | litRowEnd | wearComplete => exact execRows_rangesKept h (by simp)
  | transmitError | transmitComplete | telegramDiscard => exact execTransmission_rangesKept h (by simp)
  | frameTrigger => cases h; exact catchTrigger_rangesKept s
  | yieldReclaim i => cases h; exact triggered_rangesKept (takeReclaim_rangesKept · · i) s
  | neighbourAbsent n => cases h; exact triggered_rangesKept (takeAbsent_rangesKept · · n) s
  | notTakingExpire n => cases h; exact triggered_rangesKept (takeExpire_rangesKept · · n) s
  | settleEnd => cases h; exact triggered_rangesKept (fun _ => takeSettleEnd_rangesKept) s
  | attitudeHeld => cases h; exact triggered_rangesKept (fun _ => takeHeld_rangesKept) s
  | attitudeLost => cases h; exact triggered_rangesKept (fun _ => takeLost_rangesKept) s
  | runTelegram => cases h; exact caughtUp_takeTelegram_rangesKept judgeRun_rangesKept s
  | attitudeTelegram => cases h; exact caughtUp_takeTelegram_rangesKept takeAttitude_rangesKept s
  | headstateTelegram => cases h; exact caughtUp_takeTelegram_rangesKept writeNeighbour_rangesKept s
  | adoption => cases h; exact caughtUp_takeTelegram_rangesKept takeHandover_rangesKept s
  | sightingTelegram => cases h; exact caughtUp_takeTelegram_rangesKept takeSighting_rangesKept s
  | telegramReceived _ | transmitStart | arbitrationLost | arbitrationWon | lineIdle | startBit =>
    cases h; exact caughtUp_onLine_rangesKept _ s

/-- Settles O56: a step runs the front command, and every command keeps the ranges. -/
theorem stepKeepsKeepAndSlotRanges : Obligations.StepKeepsKeepAndSlotRanges := by
  intro s t hk hs h
  unfold step at h
  split at h
  · cases h
    exact ⟨hk, hs⟩
  · rename_i c rest _
    have hfront : RangesKept s (s.setPending rest) := .of_settings rfl
    exact (hfront.trans (exec_rangesKept h)) ⟨hk, hs⟩

end Sys2Proof.Machine
end

section
/-! SUPPORT. What a hit, a shared hit and a miss make of an entry. -/

namespace Sys2Proof.Machine

theorem clampRate_eq (v : Int) : clampRate v = max (-4000) (min 4000 v) := by
  unfold clampRate clampInt
  split <;> [skip; split] <;> omega

theorem holds_iff (z : Zone) (x : Int) : z.holds x = true ↔ z.left ≤ x ∧ x < z.right := by simp [Zone.holds]

/-- A confirmed entry keeps its state on a hit, but that it returns from COASTING to OWNED (R83). -/
theorem stateOnHit_confirmed {e : Entry} (z : Zone) (h : e.state ≠ .tentative) :
    e.stateOnHit z = if e.state = .coasting then .owned else e.state := by
  unfold Entry.stateOnHit
  cases hs : e.state
  case tentative => exact absurd hs h
  all_goals rfl

/-- A TENTATIVE entry is confirmed by its third hit, and OWNED where its position lies in the zone (R83). -/
theorem stateOnHit_tentative {e : Entry} (z : Zone) (h : e.state = .tentative) :
    e.stateOnHit z =
      if 3 ≤ e.hits then (if z.left ≤ e.x ∧ e.x < z.right then .owned else .watched) else .tentative := by
  simp only [Entry.stateOnHit, h, holds_iff]

theorem hitUpdate_eq (e : Entry) (err : Int) (height : Nat) : e.hitUpdate err height = { e with
    x := max (-8000000) (min 8000000 (e.x + err.tdiv 2)), v := max (-4000) (min 4000 (e.v + err.tdiv 8))
    height := height, misses := 0, hits := if e.state = .tentative then e.hits + 1 else e.hits
    partner := none, sharedStreak := 0 } := by
  simp only [Entry.hitUpdate, clampPosition_eq, clampRate_eq]

theorem sharedUpdate_eq (e : Entry) (err : Int) (height other : Nat) : e.sharedUpdate err height other = { e with
    x := max (-8000000) (min 8000000 (e.x + err.tdiv 2)), height := height, misses := 0, partner := some other
    sharedStreak := if e.partner = some other then min (e.sharedStreak + 1) 16 else 1 } := by
  simp only [Entry.sharedUpdate, clampPosition_eq]

/-- The hit of a confirmed entry (R80, R83). -/
theorem afterHit_confirmed {e : Entry} (z : Zone) (err : Int) (height : Nat) (h : e.state ≠ .tentative) :
    e.afterHit z err height =
      { e.hitUpdate err height with state := if e.state = .coasting then .owned else e.state } := by
  have hs : (e.hitUpdate err height).state ≠ .tentative := h
  rw [Entry.afterHit, stateOnHit_confirmed z hs]
  rfl

/-- The hit of a TENTATIVE entry, its third where it had two (R80, R83). -/
theorem afterHit_tentative {e : Entry} (z : Zone) (err : Int) (height : Nat) (h : e.state = .tentative) :
    e.afterHit z err height =
      let u := e.hitUpdate err height
      { u with state := if 2 ≤ e.hits then (if z.left ≤ u.x ∧ u.x < z.right then .owned else .watched)
        else .tentative } := by
  have hs : (e.hitUpdate err height).state = .tentative := h
  have hh : (e.hitUpdate err height).hits = e.hits + 1 := if_pos h
  rw [Entry.afterHit, stateOnHit_tentative z hs, hh]
  simp only [Nat.add_one_le_add_one_iff, hh]

/-- The shared hit of a confirmed entry (R81, R83). -/
theorem afterShared_confirmed {e : Entry} (z : Zone) (err : Int) (height other : Nat) (h : e.state ≠ .tentative) :
    e.afterShared z err height other =
      { e.sharedUpdate err height other with state := if e.state = .coasting then .owned else e.state } := by
  have hs : (e.sharedUpdate err height other).state ≠ .tentative := h
  rw [Entry.afterShared, stateOnHit_confirmed z hs]
  rfl

/-- Settles O33: a TENTATIVE entry's hit and a confirmed one's, then the shared hit and the miss. -/
theorem updatesFollowTheTable : Obligations.UpdatesFollowTheTable := by
  intro e z err height other x' ifIn
  refine ⟨?_, fun h => ?_, fun _ => rfl⟩
  · by_cases h : e.state = .tentative
    · rw [afterHit_tentative z err height h, hitUpdate_eq]
      simp only [h]
      rfl
    · rw [afterHit_confirmed z err height h, hitUpdate_eq]
      cases hs : e.state
      case tentative => exact absurd hs h
      all_goals rfl
  · rw [afterShared_confirmed z err height other h, sharedUpdate_eq]

end Sys2Proof.Machine
end

section
/-! SUPPORT. The pairs of the association, their order, and what the walk over them keeps. -/

namespace Sys2Proof.Machine

/-! ### The pairs and their order -/

/-- The pair is one of a non-empty entry and a candidate within its gate (R74). -/
def WithinGate (mount : Int) (entries : List (Option Entry)) (cands : List Candidate) (p : Pairing) : Prop :=
  ∃ e d, entries.getD p.entry none = some e ∧ cands[p.cand]? = some d
    ∧ p.err = carLateral mount d.centre - e.x ∧ (p.err.natAbs : Int) ≤ e.gate

theorem mem_pairings {mount : Int} {entries : List (Option Entry)} {cands : List Candidate} {p : Pairing} :
    p ∈ pairings mount entries cands ↔ WithinGate mount entries cands p := by
  simp only [pairings, List.mem_flatMap, WithinGate]
  constructor
  · rintro ⟨⟨o, i⟩, hi, hp⟩
    rw [List.mk_mem_zipIdx_iff_getElem?] at hi
    cases o with
    | none => cases hp
    | some e =>
      obtain ⟨⟨d, c⟩, hc, hif⟩ := List.mem_filterMap.mp hp
      obtain ⟨hg, heq⟩ := Option.ite_none_right_eq_some.mp hif
      rw [List.mk_mem_zipIdx_iff_getElem?] at hc
      cases heq
      exact ⟨e, d, by simp [List.getD_eq_getElem?_getD, hi], hc, rfl, hg⟩
  · obtain ⟨i, c, err⟩ := p
    rintro ⟨e, d, he, hd, rfl, hg⟩
    have hi : entries[i]? = some (some e) := by
      rw [List.getD_eq_getElem?_getD] at he
      cases h : entries[i]? <;> simp_all
    refine ⟨(some e, i), List.mk_mem_zipIdx_iff_getElem?.mpr hi, List.mem_filterMap.mpr ?_⟩
    exact ⟨(d, c), List.mk_mem_zipIdx_iff_getElem?.mpr hd, if_pos hg⟩

/-- The pairs are of different entries or different candidates. -/
def Pairing.Differs (p q : Pairing) : Prop := p.entry ≠ q.entry ∨ p.cand ≠ q.cand

theorem Pairing.Differs.symm {p q : Pairing} (h : p.Differs q) : q.Differs p := h.imp Ne.symm Ne.symm

theorem zipIdx_pairwise_snd_ne {α : Type} (l : List α) : l.zipIdx.Pairwise fun a b => a.2 ≠ b.2 :=
  List.pairwise_map.mp (List.nodup_zipIdx_map_snd l)

/-- An entry and a candidate make one pair at most. -/
theorem pairings_differ (mount : Int) (entries : List (Option Entry)) (cands : List Candidate) :
    (pairings mount entries cands).Pairwise Pairing.Differs := by
  unfold pairings
  rw [List.pairwise_flatMap]
  constructor
  · rintro ⟨o, i⟩ -
    cases o with
    | none => exact .nil
    | some e =>
      refine List.pairwise_filterMap.mpr ((zipIdx_pairwise_snd_ne cands).imp fun hne p hp q hq => .inr ?_)
      obtain ⟨-, ⟨⟩⟩ := Option.ite_none_right_eq_some.mp hp
      obtain ⟨-, ⟨⟩⟩ := Option.ite_none_right_eq_some.mp hq
      exact hne
  · refine (zipIdx_pairwise_snd_ne entries).imp fun {a b} hne p hp q hq => .inl ?_
    obtain ⟨_ | e, i⟩ := a
    · cases hp
    obtain ⟨_ | e', j⟩ := b
    · cases hq
    obtain ⟨_, -, hp⟩ := List.mem_filterMap.mp hp
    obtain ⟨_, -, hq⟩ := List.mem_filterMap.mp hq
    obtain ⟨-, ⟨⟩⟩ := Option.ite_none_right_eq_some.mp hp
    obtain ⟨-, ⟨⟩⟩ := Option.ite_none_right_eq_some.mp hq
    exact hne

/-- The order of the walk (R76). -/
theorem before_iff (p q : Pairing) :
    p.before q = true ↔ p.err.natAbs < q.err.natAbs
      ∨ p.err.natAbs = q.err.natAbs ∧ (p.entry < q.entry ∨ p.entry = q.entry ∧ p.cand < q.cand) := by
  simp [Pairing.before]

/-- The pair may stand ahead of the other: the other does not go before it. -/
def Pairing.NotAfter (p q : Pairing) : Prop := ¬q.before p = true

theorem insertPairing_eq_orderedInsert [DecidableRel Pairing.NotAfter] (p : Pairing) (ps : List Pairing) :
    insertPairing p ps = ps.orderedInsert Pairing.NotAfter p := by
  induction ps with
  | nil => rfl
  | cons q qs ih =>
    rw [List.orderedInsert_cons, insertPairing, ih]
    by_cases h : q.before p = true <;> simp [Pairing.NotAfter, h]

theorem sortPairings_eq_insertionSort [DecidableRel Pairing.NotAfter] (ps : List Pairing) :
    sortPairings ps = ps.insertionSort Pairing.NotAfter := by
  induction ps with
  | nil => rfl
  | cons p ps ih =>
    rw [List.insertionSort_cons, ← ih, ← insertPairing_eq_orderedInsert]
    rfl

theorem sortPairings_perm (ps : List Pairing) : (sortPairings ps).Perm ps := by
  classical
  rw [sortPairings_eq_insertionSort]
  exact List.perm_insertionSort _ ps

theorem sortPairings_notAfter (ps : List Pairing) : (sortPairings ps).Pairwise Pairing.NotAfter := by
  classical
  have htotal : Std.Total Pairing.NotAfter := ⟨fun p q => by simp only [Pairing.NotAfter, before_iff]; omega⟩
  have htrans : IsTrans Pairing Pairing.NotAfter := ⟨fun p q r => by simp only [Pairing.NotAfter, before_iff]; omega⟩
  rw [sortPairings_eq_insertionSort]
  exact List.pairwise_insertionSort _ ps

/-- The walk's order is strict on pairs that differ (R76). -/
theorem sortPairings_before {ps : List Pairing} (hd : ps.Pairwise Pairing.Differs) :
    (sortPairings ps).Pairwise fun p q => p.before q = true := by
  have hd' := ((sortPairings_perm ps).pairwise_iff Pairing.Differs.symm).mpr hd
  refine ((sortPairings_notAfter ps).and hd').imp ?_
  rintro p q ⟨hn, hne⟩
  simp only [Pairing.NotAfter, Pairing.Differs, before_iff] at hn hne ⊢
  omega

theorem mem_sortPairings {mount : Int} {entries : List (Option Entry)} {cands : List Candidate} {p : Pairing} :
    p ∈ sortPairings (pairings mount entries cands) ↔ WithinGate mount entries cands p :=
  (sortPairings_perm _).mem_iff.trans mem_pairings

/-- The gate of an entry (R75). -/
theorem gate_eq (e : Entry) :
    e.gate =
      if e.state = .tentative then 12000
      else if e.state = .coasting then min (3000 + 1000 * (e.misses : Int)) 11000 else 3000 := by
  unfold Entry.gate
  cases e.state <;> rfl

/-! ### The takers of a candidate -/

theorem mem_takers {taken : List Pairing} {c i : Nat} : i ∈ takers taken c ↔ ∃ q ∈ taken, q.cand = c ∧ q.entry = i := by
  simp [takers, and_assoc]

theorem takers_eq_nil {taken : List Pairing} {c : Nat} : takers taken c = [] ↔ ∀ q ∈ taken, q.cand ≠ c := by
  simp [takers]

theorem takers_append (taken : List Pairing) (p : Pairing) (c : Nat) :
    takers (taken ++ [p]) c = takers taken c ++ if p.cand = c then [p.entry] else [] := by
  by_cases h : p.cand = c <;> simp [takers, h]

theorem takers_nodup {taken : List Pairing} (hn : (taken.map (·.entry)).Nodup) (c : Nat) : (takers taken c).Nodup :=
  hn.sublist (List.filter_sublist.map _)

/-- A candidate that one pair alone has is taken by the one entry of that pair. -/
theorem takers_eq_singleton {taken : List Pairing} (hn : (taken.map (·.entry)).Nodup) {q : Pairing} (hq : q ∈ taken)
    (halone : ∀ r ∈ taken, r.cand = q.cand → r = q) : takers taken q.cand = [q.entry] := by
  rw [← List.perm_singleton, List.perm_ext_iff_of_nodup (takers_nodup hn _) (List.nodup_singleton _)]
  intro i
  rw [mem_takers, List.mem_singleton]
  constructor
  · rintro ⟨r, hr, hc, rfl⟩
    rw [halone r hr hc]
  · rintro rfl
    exact ⟨q, hq, rfl, rfl⟩

/-- A candidate that two pairs have has two takers. -/
theorem two_le_length_takers {taken : List Pairing} (hn : (taken.map (·.entry)).Nodup) {q r : Pairing} (hq : q ∈ taken)
    (hr : r ∈ taken) {c : Nat} (hqc : q.cand = c) (hrc : r.cand = c) (hne : q ≠ r) :
    2 ≤ (takers taken c).length := by
  have hnd : [q.entry, r.entry].Nodup := by simpa using mt (List.inj_on_of_nodup_map hn hq hr) hne
  have hsub : [q.entry, r.entry] ⊆ takers taken c := by
    simpa [mem_takers] using And.intro ⟨q, hq, hqc, rfl⟩ ⟨r, hr, hrc, rfl⟩
  exact (List.subperm_of_subset hnd hsub).length_le

/-! ### Sharing -/

/-- The entries at two indices are confirmed, with predictions no more than 6,000 µm apart (R77). -/
def CloseConfirmed (entries : List (Option Entry)) (i j : Nat) : Prop :=
  ∃ a b, entries.getD i none = some a ∧ entries.getD j none = some b
    ∧ a.state ≠ .tentative ∧ b.state ≠ .tentative ∧ (a.x - b.x).natAbs ≤ 6000

theorem CloseConfirmed.symm {entries : List (Option Entry)} {i j : Nat} (h : CloseConfirmed entries i j) :
    CloseConfirmed entries j i := by
  obtain ⟨a, b, ha, hb, hac, hbc, hx⟩ := h
  exact ⟨b, a, hb, ha, hbc, hac, by omega⟩

/-- When entry i may share a candidate that entry j has taken (R77). -/
theorem mayShare_iff {entries : List (Option Entry)} {all taken : List Pairing} {i j : Nat} :
    mayShare entries all taken i j = true ↔
      ∃ a b, entries.getD i none = some a ∧ entries.getD j none = some b ∧ a.state ≠ .tentative ∧ b.state ≠ .tentative
        ∧ (a.x - b.x).natAbs ≤ 6000 ∧ ∀ r ∈ all, r.entry = i → ∃ r' ∈ taken, r'.cand = r.cand := by
  unfold mayShare
  cases entries.getD i none with
  | none => simp
  | some a =>
    cases entries.getD j none with
    | none => simp
    | some b => simp [isConfirmed_iff, takers_eq_nil, and_assoc]

theorem closeConfirmed_of_mayShare {entries : List (Option Entry)} {all taken : List Pairing} {i j : Nat}
    (h : mayShare entries all taken i j = true) : CloseConfirmed entries i j := by
  obtain ⟨a, b, ha, hb, hac, hbc, hx, -⟩ := mayShare_iff.mp h
  exact ⟨a, b, ha, hb, hac, hbc, hx⟩

/-! ### One pair of the walk -/

section
variable {entries : List (Option Entry)} {all taken : List Pairing} {p : Pairing}

theorem walkPair_served (h : ∃ q ∈ taken, q.entry = p.entry) : walkPair entries all taken p = taken :=
  if_pos (by simpa using h)

theorem walkPair_untaken (h : ∀ q ∈ taken, q.entry ≠ p.entry) (hc : takers taken p.cand = []) :
    walkPair entries all taken p = taken ++ [p] := by
  rw [walkPair, if_neg (by simpa using h), hc]

theorem walkPair_takenOnce (h : ∀ q ∈ taken, q.entry ≠ p.entry) {f : Nat} (hc : takers taken p.cand = [f]) :
    walkPair entries all taken p = if mayShare entries all taken p.entry f then taken ++ [p] else taken := by
  rw [walkPair, if_neg (by simpa using h), hc]

theorem walkPair_shared (h : ∀ q ∈ taken, q.entry ≠ p.entry) (hc : 2 ≤ (takers taken p.cand).length) :
    walkPair entries all taken p = taken := by
  rw [walkPair, if_neg (by simpa using h)]
  match takers taken p.cand, hc with
  | _ :: _ :: _, _ => rfl

/-- What a pair of the walk can do: it is passed over, its entry served or its candidate taken, or it is added for an
unserved entry, its candidate untaken or shared with the one that took it (R76, R77). -/
theorem walkPair_cases (entries : List (Option Entry)) (all taken : List Pairing) (p : Pairing) :
    (walkPair entries all taken p = taken ∧ ∃ q ∈ taken, q.entry = p.entry ∨ q.cand = p.cand)
    ∨ walkPair entries all taken p = taken ++ [p] ∧ (∀ q ∈ taken, q.entry ≠ p.entry)
      ∧ (takers taken p.cand = [] ∨ ∃ f, takers taken p.cand = [f] ∧ CloseConfirmed entries p.entry f) := by
  by_cases hs : ∃ q ∈ taken, q.entry = p.entry
  · obtain ⟨q, hq, he⟩ := hs
    exact .inl ⟨walkPair_served ⟨q, hq, he⟩, q, hq, .inl he⟩
  have hu : ∀ q ∈ taken, q.entry ≠ p.entry := fun q hq he => hs ⟨q, hq, he⟩
  have passed : ∀ f ∈ takers taken p.cand, ∃ q ∈ taken, q.entry = p.entry ∨ q.cand = p.cand := fun f hf => by
    obtain ⟨q, hq, hc, -⟩ := mem_takers.mp hf
    exact ⟨q, hq, .inr hc⟩
  match hk : takers taken p.cand with
  | [] => exact .inr ⟨walkPair_untaken hu hk, hu, .inl rfl⟩
  | [f] =>
    rw [walkPair_takenOnce hu hk]
    split
    · rename_i hm
      exact .inr ⟨rfl, hu, .inr ⟨f, rfl, closeConfirmed_of_mayShare hm⟩⟩
    · exact .inl ⟨rfl, passed f (by simp [hk])⟩
  | f :: g :: l => exact .inl ⟨walkPair_shared hu (by simp [hk]), passed f (by simp [hk])⟩

end

/-! ### The walk -/

/-- What the pairs taken or shared keep after a walk over `done`. -/
structure WalkInv (entries : List (Option Entry)) (done taken : List Pairing) : Prop where
  entryOnce : (taken.map (·.entry)).Nodup
  atMostTwo : ∀ c, (takers taken c).length ≤ 2
  walked : ∀ p ∈ taken, p ∈ done
  sharing : ∀ p ∈ taken, ∀ q ∈ taken, p.cand = q.cand → p.entry ≠ q.entry → CloseConfirmed entries p.entry q.entry
  settled : ∀ p ∈ done, ∃ q ∈ taken, q.entry = p.entry ∨ q.cand = p.cand

/-- A pair passed over keeps them. -/
theorem WalkInv.pass {entries : List (Option Entry)} {done taken : List Pairing} {p : Pairing}
    (h : WalkInv entries done taken) (hp : ∃ q ∈ taken, q.entry = p.entry ∨ q.cand = p.cand) :
    WalkInv entries (done ++ [p]) taken where
  entryOnce := h.entryOnce
  atMostTwo := h.atMostTwo
  walked q hq := List.mem_append_left _ (h.walked q hq)
  sharing := h.sharing
  settled := List.forall_mem_append.mpr ⟨h.settled, by simpa using hp⟩

/-- A pair added keeps them. -/
theorem WalkInv.add {entries : List (Option Entry)} {done taken : List Pairing} {p : Pairing}
    (h : WalkInv entries done taken) (hu : ∀ q ∈ taken, q.entry ≠ p.entry)
    (hc : takers taken p.cand = [] ∨ ∃ f, takers taken p.cand = [f] ∧ CloseConfirmed entries p.entry f) :
    WalkInv entries (done ++ [p]) (taken ++ [p]) := by
  have hclose : ∀ q ∈ taken, q.cand = p.cand → CloseConfirmed entries p.entry q.entry := by
    intro q hq hqc
    have hm : q.entry ∈ takers taken p.cand := mem_takers.mpr ⟨q, hq, hqc, rfl⟩
    rcases hc with hc | ⟨f, hc, hf⟩
    · simp [hc] at hm
    · rw [hc, List.mem_singleton] at hm
      exact hm ▸ hf
  constructor
  case entryOnce => simpa [List.nodup_append, h.entryOnce] using hu
  case atMostTwo =>
    intro c
    rw [takers_append]
    split
    · rename_i hpc
      rcases hc with hc | ⟨f, hc, -⟩ <;> simp [← hpc, hc]
    · simpa using h.atMostTwo c
  case walked =>
    exact List.forall_mem_append.mpr ⟨fun q hq => List.mem_append_left _ (h.walked q hq), by simp⟩
  case sharing =>
    intro q hq r hr hqr hne
    rw [List.mem_append, List.mem_singleton] at hq hr
    rcases hq with hq | rfl <;> rcases hr with hr | rfl
    · exact h.sharing q hq r hr hqr hne
    · exact (hclose q hq hqr).symm
    · exact hclose r hr hqr.symm
    · exact absurd rfl hne
  case settled =>
    refine List.forall_mem_append.mpr ⟨fun q hq => ?_, by simp⟩
    obtain ⟨r, hr, hrq⟩ := h.settled q hq
    exact ⟨r, List.mem_append_left _ hr, hrq⟩

theorem WalkInv.step {entries : List (Option Entry)} {done taken : List Pairing} (h : WalkInv entries done taken)
    (all : List Pairing) (p : Pairing) : WalkInv entries (done ++ [p]) (walkPair entries all taken p) := by
  rcases walkPair_cases entries all taken p with ⟨hw, hp⟩ | ⟨hw, hu, hc⟩
  · rw [hw]
    exact h.pass hp
  · rw [hw]
    exact h.add hu hc

/-- The pairs taken or shared after a walk over a list of pairs (R76). -/
def walkOver (entries : List (Option Entry)) (all ps : List Pairing) : List Pairing :=
  ps.foldl (walkPair entries all) []

theorem associate_eq_walkOver (mount : Int) (entries : List (Option Entry)) (cands : List Candidate) :
    associate mount entries cands =
      walkOver entries (pairings mount entries cands) (sortPairings (pairings mount entries cands)) := rfl

theorem walkOver_append (entries : List (Option Entry)) (all ps : List Pairing) (p : Pairing) :
    walkOver entries all (ps ++ [p]) = walkPair entries all (walkOver entries all ps) p := by
  simp [walkOver]

theorem walkOver_take_succ (entries : List (Option Entry)) (all : List Pairing) {ps : List Pairing} {n : Nat}
    {p : Pairing} (hp : ps[n]? = some p) :
    walkOver entries all (ps.take (n + 1)) = walkPair entries all (walkOver entries all (ps.take n)) p := by
  rw [List.take_add_one, hp, Option.toList_some, walkOver_append]

theorem walkOver_inv (entries : List (Option Entry)) (all ps : List Pairing) :
    WalkInv entries ps (walkOver entries all ps) := by
  induction ps using List.reverseRecOn with
  | nil => exact ⟨.nil, by simp [walkOver, takers], by simp [walkOver], by simp [walkOver], by simp⟩
  | append_singleton ps p ih =>
    rw [walkOver_append]
    exact ih.step all p

theorem associate_inv (mount : Int) (entries : List (Option Entry)) (cands : List Candidate) :
    WalkInv entries (sortPairings (pairings mount entries cands)) (associate mount entries cands) := by
  rw [associate_eq_walkOver]
  exact walkOver_inv ..

/-- An entry left without a candidate leaves no untaken one within its gate (R76). -/
theorem associate_leaves_none {mount : Int} {entries : List (Option Entry)} {cands : List Candidate} {p : Pairing}
    (hp : WithinGate mount entries cands p) (hleft : ∀ q ∈ associate mount entries cands, q.entry ≠ p.entry) :
    ∃ q ∈ associate mount entries cands, q.cand = p.cand := by
  obtain ⟨q, hq, he | hc⟩ := (associate_inv mount entries cands).settled p (mem_sortPairings.mpr hp)
  · exact absurd he (hleft q hq)
  · exact ⟨q, hq, hc⟩

/-- The walk by R76's table, with the condition of R77 where one other entry has the candidate. -/
theorem walkPair_table {entries : List (Option Entry)} {all taken : List Pairing}
    (hn : (taken.map (·.entry)).Nodup) (p : Pairing) :
    ((∃ q ∈ taken, q.entry = p.entry) → walkPair entries all taken p = taken)
    ∧ ((∀ q ∈ taken, q.entry ≠ p.entry) →
        ((∀ q ∈ taken, q.cand ≠ p.cand) → walkPair entries all taken p = taken ++ [p])
        ∧ (∀ q ∈ taken, q.cand = p.cand → (∀ r ∈ taken, r.cand = p.cand → r = q) →
            walkPair entries all taken p = if mayShare entries all taken p.entry q.entry then taken ++ [p] else taken)
        ∧ (∀ q ∈ taken, ∀ r ∈ taken, q.cand = p.cand → r.cand = p.cand → q ≠ r →
            walkPair entries all taken p = taken)) := by
  refine ⟨walkPair_served, fun hu => ⟨fun hc => walkPair_untaken hu (takers_eq_nil.mpr hc), ?_, ?_⟩⟩
  · intro q hq hc halone
    refine walkPair_takenOnce hu ?_
    rw [← hc] at halone ⊢
    exact takers_eq_singleton hn hq halone
  · intro q hq r hr hqc hrc hne
    exact walkPair_shared hu (two_le_length_takers hn hq hr hqc hrc hne)

/-- Settles O32: the clauses on the result are the walk's invariant, and those on the walk are R76's table at each of
its pairs. -/
theorem associationIsExclusive : Obligations.AssociationIsExclusive := by
  intro mount entries cands taken
  have hinv : WalkInv entries (sortPairings (pairings mount entries cands)) taken := associate_inv mount entries cands
  refine ⟨hinv.entryOnce, hinv.atMostTwo, fun p hp => mem_sortPairings.mp (hinv.walked p hp), gate_eq, hinv.sharing,
    fun i e he hleft c d hd hg =>
      associate_leaves_none (p := ⟨i, c, carLateral mount d.centre - e.x⟩) ⟨e, d, he, hd, rfl, hg⟩ hleft, ?_⟩
  let all := pairings mount entries cands
  refine ⟨sortPairings all, fun n => walkOver entries all ((sortPairings all).take n), fun p => mem_sortPairings,
    (sortPairings_before (pairings_differ ..)).imp fun {p q} h => (before_iff p q).mp h, rfl,
    congrArg (walkOver entries all) List.take_length, fun n p hp => ?_⟩
  obtain ⟨hserved, hunserved⟩ :=
    walkPair_table (all := all) (walkOver_inv entries all ((sortPairings all).take n)).entryOnce p
  simp only [walkOver_take_succ entries all hp]
  refine ⟨hserved, fun hu => ?_⟩
  obtain ⟨huntaken, honce, hshared⟩ := hunserved hu
  refine ⟨huntaken, fun q hq hc halone => ?_, hshared⟩
  simp only [honce q hq hc halone, (sortPairings_perm all).mem_iff, ← mayShare_iff]
  exact ⟨fun h => if_pos h, fun h => if_neg h⟩

end Sys2Proof.Machine
end

section
/-! SUPPORT. The nearest of numbered items, and the own zone that the nearest eligible neighbours bound. -/

namespace Sys2Proof.Machine

/-! ### The nearest of numbered items -/

/-- `p` is the nearest by `dist` of the numbered items `l`, of equally near ones that with the lowest number. -/
def IsNearest {α : Type} (dist : α → Nat) (l : List (Nat × α)) (p : Nat × α) : Prop :=
  p ∈ l ∧ ∀ q ∈ l, dist p.2 < dist q.2 ∨ dist p.2 = dist q.2 ∧ p.1 ≤ q.1

/-- The items stand in order of their numbers. -/
def Numbered {α : Type} (l : List (Nat × α)) : Prop := l.Pairwise fun p q => p.1 < q.1

theorem Numbered.filter {α : Type} {l : List (Nat × α)} (h : Numbered l) (ok : Nat × α → Bool) :
    Numbered (l.filter ok) := List.Pairwise.filter ok h

/-- Items taken from a list by place stand in order when their numbers are the places, counted from `c`. -/
theorem numbered_of_zipIdx {α β : Type} {l : List α} {f : α × Nat → Option (Nat × β)} (c : Nat)
    (h : ∀ a p, f a = some p → p.1 = a.2 + c) : Numbered (l.zipIdx.filterMap f) := by
  have hplaces : l.zipIdx.Pairwise fun a b => a.2 < b.2 := by
    rw [← List.pairwise_map, List.zipIdx_map_snd]
    exact List.pairwise_lt_range'
  refine List.pairwise_filterMap.mpr (hplaces.imp fun {a b} hlt p hp q hq => ?_)
  rw [h a p hp, h b q hq]
  exact Nat.add_lt_add_right hlt c

/-- The first item with the least distance is the nearest. -/
theorem argmin_isNearest {α : Type} {dist : α → Nat} : ∀ {l : List (Nat × α)} {p : Nat × α}, Numbered l →
    l.argmin (fun q => dist q.2) = some p → IsNearest dist l p
  | [], _, _, h => by cases h
  | a :: l, p, hl, h => by
    obtain ⟨ha, hl⟩ := List.pairwise_cons.mp hl
    rw [List.argmin_cons] at h
    cases hc : l.argmin fun q => dist q.2 with
    | none =>
      rw [hc] at h
      cases h
      rw [List.argmin_eq_none.mp hc]
      exact ⟨List.mem_singleton_self a, fun q hq => .inr (by simp [List.mem_singleton.mp hq])⟩
    | some c =>
      obtain ⟨hcl, hleast⟩ := argmin_isNearest hl hc
      rw [hc] at h
      by_cases hlt : dist c.2 < dist a.2
      · obtain rfl : c = p := Option.some.inj ((if_pos hlt).symm.trans h)
        exact ⟨List.mem_cons_of_mem a hcl, List.forall_mem_cons.mpr ⟨.inl hlt, hleast⟩⟩
      · obtain rfl : a = p := Option.some.inj ((if_neg hlt).symm.trans h)
        refine ⟨List.mem_cons_self, List.forall_mem_cons.mpr ⟨.inr ⟨rfl, le_rfl⟩, fun q hq => ?_⟩⟩
        have := hleast q hq
        have := ha q hq
        omega

/-- Two nearest items have one number. -/
theorem IsNearest.number_eq {α : Type} {dist : α → Nat} {l : List (Nat × α)} {p q : Nat × α} (hp : IsNearest dist l p)
    (hq : IsNearest dist l q) : p.1 = q.1 := by
  have := hp.2 q hq.1
  have := hq.2 p hp.1
  omega

/-! ### The own zone -/

theorem nearestOffset_eq_argmin (mount : Int) (l : List (Nat × Int)) :
    nearestOffset mount l = l.argmin fun p => (p.2 - mount).natAbs := by
  induction l with
  | nil => rfl
  | cons p ps ih =>
    rw [List.argmin_cons, nearestOffset, ih]
    cases ps.argmin fun p => (p.2 - mount).natAbs with
    | none => rfl
    | some q => simp only [← not_le, ite_not]

/-- An eligible neighbour, at place k of the list, with its mount offset (R102, R103). -/
def EligibleAt (nl : List Neighbour) (mount : Int) (k : Nat) (o : Int) : Prop :=
  ∃ r, nl[k]? = some r
    ∧ r.state = .present ∧ r.mountOffset = some o ∧ (o - mount).natAbs < 512000 ∧ r.notTaking = 0 ∧ r.heldBack = false

/-- A record overlaps when it is PRESENT and its mount offset is less than 512,000 µm away (R102). -/
theorem overlaps_iff (r : Neighbour) (mount : Int) :
    r.overlaps mount = true ↔ r.state = .present ∧ ∃ o, r.mountOffset = some o ∧ (o - mount).natAbs < 512000 := by
  unfold Neighbour.overlaps Neighbour.near
  cases r.mountOffset <;> simp

theorem mem_eligibleOffsets {nl : List Neighbour} {mount : Int} {n : Nat} {o : Int} :
    (n, o) ∈ eligibleOffsets nl mount ↔ ∃ k, n = k + 1 ∧ EligibleAt nl mount k o := by
  simp only [eligibleOffsets, List.mem_filterMap, Prod.exists, List.mk_mem_zipIdx_iff_getElem?,
    Option.ite_none_right_eq_some, Option.map_eq_some_iff, Prod.mk.injEq, EligibleAt, Neighbour.eligible,
    Bool.and_eq_true, overlaps_iff, beq_iff_eq, Bool.not_eq_true']
  constructor
  · rintro ⟨r, k, hr, ⟨⟨⟨hp, o', ho', hd⟩, hn⟩, hh⟩, m, hm, rfl, rfl⟩
    obtain rfl : o' = m := Option.some.inj (ho'.symm.trans hm)
    exact ⟨k, rfl, r, hr, hp, hm, hd, hn, hh⟩
  · rintro ⟨k, rfl, r, hr, hp, hm, hd, hn, hh⟩
    exact ⟨r, k, hr, ⟨⟨⟨hp, o, hm, hd⟩, hn⟩, hh⟩, o, hm, rfl, rfl⟩

theorem eligibleOffsets_numbered (nl : List Neighbour) (mount : Int) : Numbered (eligibleOffsets nl mount) := by
  refine numbered_of_zipIdx 1 fun a p hp => ?_
  obtain ⟨-, hp⟩ := Option.ite_none_right_eq_some.mp hp
  obtain ⟨_, -, rfl⟩ := Option.map_eq_some_iff.mp hp
  rfl

/-- With no nearest eligible neighbour on a side there is none on it. -/
theorem nearestEligible_none {nl : List Neighbour} {mount : Int} {side : Nat × Int → Bool}
    (h : nearestOffset mount ((eligibleOffsets nl mount).filter side) = none) {k : Nat} {o : Int}
    (hk : EligibleAt nl mount k o) : side (k + 1, o) = false := by
  rw [nearestOffset_eq_argmin, List.argmin_eq_none, List.filter_eq_nil_iff] at h
  simpa using h _ (mem_eligibleOffsets.mpr ⟨k, rfl, hk⟩)

/-- The nearest eligible neighbour on a side, of two equally near that with the lower station (R103). -/
theorem nearestEligible_some {nl : List Neighbour} {mount : Int} {side : Nat × Int → Bool} {p : Nat × Int}
    (h : nearestOffset mount ((eligibleOffsets nl mount).filter side) = some p) :
    ∃ k, p.1 = k + 1 ∧ EligibleAt nl mount k p.2 ∧ side p = true
      ∧ ∀ k' o', EligibleAt nl mount k' o' → side (k' + 1, o') = true →
          (p.2 - mount).natAbs < (o' - mount).natAbs ∨ (p.2 - mount).natAbs = (o' - mount).natAbs ∧ k ≤ k' := by
  rw [nearestOffset_eq_argmin] at h
  obtain ⟨hmem, hleast⟩ := argmin_isNearest (dist := fun o => (o - mount).natAbs)
    ((eligibleOffsets_numbered nl mount).filter side) h
  obtain ⟨hel, hside⟩ := List.mem_filter.mp hmem
  obtain ⟨k, hk, hek⟩ := mem_eligibleOffsets.mp hel
  refine ⟨k, hk, hek, hside, fun k' o' he' hs' => ?_⟩
  have := hleast (k' + 1, o') (List.mem_filter.mpr ⟨mem_eligibleOffsets.mpr ⟨k', rfl, he'⟩, hs'⟩)
  simp only at this
  omega

/-- An eligible neighbour is less than 512,000 µm away on either side (R102). -/
theorem EligibleAt.near {nl : List Neighbour} {mount : Int} {k : Nat} {o : Int} (h : EligibleAt nl mount k o) :
    mount - 512000 < o ∧ o < mount + 512000 := by
  obtain ⟨r, -, -, -, hd, -⟩ := h
  omega

/-- The left boundary by what sets it (R103). -/
theorem ownZone_left (nl : List Neighbour) (m : Int) :
    ((ownZone nl m).leftSetBy = none ∧ (ownZone nl m).left = m - 256000 ∧ ∀ k o, EligibleAt nl m k o → m ≤ o)
    ∨ ∃ k o, (ownZone nl m).leftSetBy = some (k + 1) ∧ (ownZone nl m).left = (m + o) / 2
        ∧ EligibleAt nl m k o ∧ o < m ∧ ∀ k' o', EligibleAt nl m k' o' → o' < m → o' < o ∨ o' = o ∧ k ≤ k' := by
  unfold ownZone
  dsimp only
  cases h : nearestOffset m ((eligibleOffsets nl m).filter fun p => p.2 < m) with
  | none => exact .inl ⟨rfl, rfl, fun k o hk => by simpa using nearestEligible_none h hk⟩
  | some p =>
    obtain ⟨k, hk, he, hside, hleast⟩ := nearestEligible_some h
    simp only [decide_eq_true_eq] at hside hleast
    refine .inr ⟨k, p.2, congrArg some hk, rfl, he, hside, fun k' o' he' ho' => ?_⟩
    have := hleast k' o' he' ho'
    omega

/-- The right boundary by what sets it (R103). -/
theorem ownZone_right (nl : List Neighbour) (m : Int) :
    ((ownZone nl m).rightSetBy = none ∧ (ownZone nl m).right = m + 256000 ∧ ∀ k o, EligibleAt nl m k o → o ≤ m)
    ∨ ∃ k o, (ownZone nl m).rightSetBy = some (k + 1) ∧ (ownZone nl m).right = (m + o) / 2
        ∧ EligibleAt nl m k o ∧ m < o ∧ ∀ k' o', EligibleAt nl m k' o' → m < o' → o < o' ∨ o' = o ∧ k ≤ k' := by
  unfold ownZone
  dsimp only
  cases h : nearestOffset m ((eligibleOffsets nl m).filter fun p => m < p.2) with
  | none => exact .inl ⟨rfl, rfl, fun k o hk => by simpa using nearestEligible_none h hk⟩
  | some p =>
    obtain ⟨k, hk, he, hside, hleast⟩ := nearestEligible_some h
    simp only [decide_eq_true_eq] at hside hleast
    refine .inr ⟨k, p.2, congrArg some hk, rfl, he, hside, fun k' o' he' ho' => ?_⟩
    have := hleast k' o' he' ho'
    omega

/-- The left boundary lies between the sector edge and the head (R103). -/
theorem ownZone_left_range (nl : List Neighbour) (m : Int) :
    m - 256000 ≤ (ownZone nl m).left ∧ (ownZone nl m).left < m := by
  rcases ownZone_left nl m with ⟨-, h, -⟩ | ⟨k, o, -, h, he, ho, -⟩
  · omega
  · have := he.near
    omega

/-- So does the right one, at the head or beyond it. -/
theorem ownZone_right_range (nl : List Neighbour) (m : Int) :
    m ≤ (ownZone nl m).right ∧ (ownZone nl m).right ≤ m + 256000 := by
  rcases ownZone_right nl m with ⟨-, h, -⟩ | ⟨k, o, -, h, he, ho, -⟩
  · omega
  · have := he.near
    omega

/-- Settles O34: each boundary is the sector edge or set by the nearest eligible neighbour on its side. -/
theorem ownZoneWithinSector : Obligations.OwnZoneWithinSector := by
  intro nl m z bounds
  obtain ⟨hedge, hbelow⟩ := ownZone_left_range nl m
  obtain ⟨habove, hedge'⟩ := ownZone_right_range nl m
  refine ⟨⟨hedge, hbelow, habove, hedge'⟩, fun hn => ?_, fun hn => ?_, fun n hn => ?_, fun n hn => ?_⟩
  · rcases ownZone_left nl m with ⟨-, h, hnone⟩ | ⟨k, o, hs, -⟩
    · exact ⟨h, hnone⟩
    · cases hs.symm.trans hn
  · rcases ownZone_right nl m with ⟨-, h, hnone⟩ | ⟨k, o, hs, -⟩
    · exact ⟨h, hnone⟩
    · cases hs.symm.trans hn
  · rcases ownZone_left nl m with ⟨hs, -⟩ | ⟨k, o, hs, h, he, ho, hleast⟩
    · cases hs.symm.trans hn
    · exact ⟨k, o, (Option.some.inj (hs.symm.trans hn)).symm, he, ho, h, hleast⟩
  · rcases ownZone_right nl m with ⟨hs, -⟩ | ⟨k, o, hs, h, he, ho, hleast⟩
    · cases hs.symm.trans hn
    · exact ⟨k, o, (Option.some.inj (hs.symm.trans hn)).symm, he, ho, h, hleast⟩

end Sys2Proof.Machine
end

section
/-! SUPPORT. A telegram from another head that passes the checks of dispatch, and what a HEADSTATE writes. -/

namespace Sys2Proof.Machine

/-! ### Dispatch -/

/-- The kind and the sender that an identifier names (R173). -/
theorem kind_station_of_ident {x : RxTelegram} {code k : Nat} (hid : x.ident.toNat = code * 16 + (k + 1))
    (hk : k < 8) : x.kind = kindOfCode code ∧ x.station = k + 1 := by
  unfold RxTelegram.kind RxTelegram.station
  rw [show x.ident.toNat / 16 = code by omega]
  exact ⟨rfl, by omega⟩

/-- A telegram of an accepted length from another station of the Neighbour List is delivered (R178). -/
theorem verdict_deliver {x : RxTelegram} {kind : Kind} {own k : Nat} (hkind : x.kind = some kind)
    (hhead : kind.fromHead = true) (hstation : x.station = k + 1) (hk : k < 8) (hne : k + 1 ≠ own)
    (hlen : lengthAccepted kind x.body = true) : verdict true own x = .deliver kind := by
  have h8 : ¬8 < k + 1 := by omega
  simp [verdict, hkind, hlen, hhead, hstation, hne, h8]

/-- The state with the telegrams `rest` left in the receive buffers (R177). -/
def State.buffersLeft (s : State) (rest : List RxTelegram) : State := s.setLc { s.lc with rxBuffers := rest }

/-- The block takes the oldest buffered telegram, delivered to it, and the buffer becomes FREE (R177, R178). -/
theorem takeTelegram_delivered {cfg : Startup} {x : RxTelegram} {rest : List RxTelegram} {kind : Kind} {s : State}
    (act : Startup → RxTelegram → State → State) (hq : Quiet cfg s) (hb : s.lc.rxBuffers = x :: rest)
    (hv : verdict true s.src.station x = .deliver kind) :
    takeTelegram kind act (catchUp s) = act cfg x (s.buffersLeft rest) := by
  have hd : dispatched s = some (x, .deliver kind) := by
    rw [dispatched, hb, hq.1]
    exact congrArg (fun v => some (x, v)) hv
  have hfree : freeBuffer s = s.buffersLeft rest := by
    rw [freeBuffer, hb]
    rfl
  rw [catchUp_of_quiet hq, takeTelegram, hq.1, hd, ← hfree]
  exact if_pos rfl

/-! ### HEADSTATE -/

/-- The first sticky flag of a HEADSTATE, CONFIG_BAD, is the last bit of the flags' low byte (R190). -/
theorem configBad_carried (body : List Byte) :
    StickyFlag.configBad.isSetIn (headstateStickyOf body) = (body.getD 22 0).getLsbD 0 := by
  show (BitVec.ofNat 16 ((0 * 256 + (body.getD 21 0).toNat) * 256 + (body.getD 22 0).toNat)).getLsbD 0 = _
  rw [BitVec.getLsbD_ofNat, BitVec.getLsbD, Nat.testBit_zero, Nat.testBit_zero]
  simp [Nat.add_mod, Nat.mul_mod]

/-- HEADSTATE_TELEGRAM with a HEADSTATE that is delivered (R100, R178). -/
theorem exec_headstateTelegram {cfg : Startup} {x : RxTelegram} {rest : List RxTelegram} {s : State} (hq : Quiet cfg s)
    (hb : s.lc.rxBuffers = x :: rest) (hv : verdict true s.src.station x = .deliver .headstate) :
    exec .headstateTelegram s = .next (writeNeighbour cfg x (s.buffersLeft rest)) :=
  congrArg _ (takeTelegram_delivered writeNeighbour hq hb hv)

/-- Settles O42: the HEADSTATE is delivered and written into its sender's record. -/
theorem headstateWritesRecord : Obligations.HeadstateWritesRecord := by
  intro cfg x rest k r s hq hb hid hk hne hlen hr
  obtain ⟨hkind, hstation⟩ := kind_station_of_ident hid hk
  have hv := verdict_deliver hkind rfl hstation hk hne (by simpa [lengthAccepted] using hlen)
  have hrecord : (s.buffersLeft rest).neighbour (k + 1) = r := neighbour_of_record hr
  rw [exec_headstateTelegram hq hb hv, writeNeighbour, hstation, configBad_carried, hrecord]
  rfl

end Sys2Proof.Machine
end

section
/-! SUPPORT. Which entry matches a position, and adoption in place of it. -/

namespace Sys2Proof.Machine

/-! ### The matching entry -/

theorem evictable_numbered (t : TrackTable) (made : List Nat) : Numbered (t.evictable made) := by
  refine numbered_of_zipIdx 0 fun a p hp => ?_
  obtain ⟨-, hp⟩ := Option.ite_none_left_eq_some.mp hp
  obtain ⟨_, -, rfl⟩ := Option.map_eq_some_iff.mp hp
  rfl

theorem pickFirst_eq_argmin (dist : Entry → Nat) (l : List (Nat × Entry)) :
    pickFirst (fun a b => dist a < dist b) l = l.argmin fun p => dist p.2 := by
  induction l with
  | nil => rfl
  | cons p ps ih =>
    rw [List.argmin_cons, pickFirst, ih]
    cases ps.argmin fun p => dist p.2 with
    | none => rfl
    | some q => simp only [decide_eq_true_eq]

/-- The entries among which the match is looked for (R109, R120). -/
theorem mem_matchable {t : TrackTable} {ok : Entry → Bool} {p : Nat × Entry} :
    p ∈ (t.evictable []).filter (fun p => ok p.2) ↔ t.entry p.1 = some p.2 ∧ ok p.2 = true := by
  simp [mem_evictable]

/-- The nearest entry within the distance is the one that matches (R109, R120). -/
theorem matchingEntry_eq_some {t : TrackTable} {ok : Entry → Bool} {x : Int} {within i : Nat} {e : Entry}
    (he : t.entry i = some e) (hok : ok e = true) (hx : (e.x - x).natAbs ≤ within)
    (hleast : ∀ j d, t.entry j = some d → ok d = true →
      (e.x - x).natAbs < (d.x - x).natAbs ∨ (e.x - x).natAbs = (d.x - x).natAbs ∧ i ≤ j) :
    matchingEntry t ok x within = some (i, e) := by
  let near := (t.evictable []).filter fun p => ok p.2
  have hi : IsNearest (fun d => (d.x - x).natAbs) near (i, e) :=
    ⟨mem_matchable.mpr ⟨he, hok⟩, fun q hq => hleast _ _ (mem_matchable.mp hq).1 (mem_matchable.mp hq).2⟩
  have hfound : nearestEntry t ok x = some (i, e) := by
    rw [nearestEntry, pickFirst_eq_argmin fun d => (d.x - x).natAbs]
    cases hp : near.argmin fun p => (p.2.x - x).natAbs with
    | none => exact absurd hi.1 (by rw [List.argmin_eq_none.mp hp]; exact List.not_mem_nil)
    | some p =>
      have hpn := argmin_isNearest (dist := fun d => (d.x - x).natAbs) ((evictable_numbered t []).filter _) hp
      have hpi : p.1 = i := hpn.number_eq hi
      have hpe := (mem_matchable.mp hpn.1).1
      rw [hpi, he] at hpe
      exact congrArg some (Prod.ext hpi (Option.some.inj hpe).symm)
  rw [matchingEntry, hfound]
  exact if_pos (decide_eq_true hx)

/-- With no entry within the distance none matches. -/
theorem matchingEntry_eq_none {t : TrackTable} {ok : Entry → Bool} {x : Int} {within : Nat}
    (h : ∀ j d, t.entry j = some d → within < (d.x - x).natAbs) : matchingEntry t ok x within = none := by
  rw [matchingEntry, Option.filter_eq_none_iff]
  rintro ⟨j, d⟩ hp
  have := h j d (mem_matchable.mp (pickFirst_mem hp)).1
  simpa using this

/-! ### Adoption -/

/-- A HANDOVER that names its target by one byte (R188). -/
theorem handoverOf_target (body : List Byte) : (handoverOf body).target = (body.getD 0 0).toNat := by
  show 0 * 256 + (body.getD 0 0).toNat = _
  omega

/-- ADOPTION with a HANDOVER that is delivered (R178). -/
theorem exec_adoption {cfg : Startup} {x : RxTelegram} {rest : List RxTelegram} {s : State} (hq : Quiet cfg s)
    (hb : s.lc.rxBuffers = x :: rest) (hv : verdict true s.src.station x = .deliver .handover) :
    exec .adoption s = .next (takeHandover cfg x (s.buffersLeft rest)) :=
  congrArg _ (takeTelegram_delivered takeHandover hq hb hv)

/-- A HANDOVER that names this head is adopted in place of the matching entry (R109). -/
theorem takeHandover_matched {cfg : Startup} {x : RxTelegram} {u : State} {i : Nat} {e : Entry}
    (ht : (x.body.getD 0 0).toNat = u.src.station)
    (hm : matchingEntry u.tt (fun _ => true) (handoverOf x.body).x 12000 = some (i, e)) :
    takeHandover cfg x u = adoptInPlace i e ⟨x.station, x.body.getD 1 0⟩ (handoverOf x.body).v u := by
  simp only [takeHandover, if_pos ((handoverOf_target _).trans ht), hm]
  rfl

/-- With no matching entry it is adopted as a new one (R110). -/
theorem takeHandover_unmatched {cfg : Startup} {x : RxTelegram} {u : State}
    (ht : (x.body.getD 0 0).toNat = u.src.station)
    (hm : matchingEntry u.tt (fun _ => true) (handoverOf x.body).x 12000 = none) :
    takeHandover cfg x u = adoptNew (handoverOf x.body) ⟨x.station, x.body.getD 1 0⟩ u := by
  simp only [takeHandover, if_pos ((handoverOf_target _).trans ht), hm]
  rfl

/-- An entry that becomes OWNED by its adoption (R109, R113). -/
theorem adopt_eq (e : Entry) (o : Origin) (rate : Int)
    (hs : e.state = .tentative ∨ e.state = .watched ∨ e.state = .yielded) :
    e.adopt o rate =
      { e with
        origin := some o, state := .owned
        hits := if e.state = .tentative then 3 else e.hits
        v := if e.state = .tentative then max (-4000) (min 4000 rate) else e.v
        yieldAge := if e.state = .yielded then 0 else e.yieldAge
        yieldTarget := if e.state = .yielded then none else e.yieldTarget
        reclaimMark := if e.state = .yielded then false else e.reclaimMark } := by
  unfold Entry.adopt
  rcases hs with hs | hs | hs <;> simp [hs, clampRate_eq]

/-- One that is OWNED or COASTING keeps its state (R109). -/
theorem adopt_owner (e : Entry) (o : Origin) (rate : Int) (hs : e.state = .owned ∨ e.state = .coasting) :
    e.adopt o rate = { e with origin := some o } := by
  unfold Entry.adopt
  rcases hs with hs | hs <;> simp only [hs]

/-- Adoption in place of an entry that becomes OWNED offers it a lane (R84, R109, R113). -/
theorem adoptInPlace_offered {i : Nat} {e : Entry} (o : Origin) (rate : Int) {u : State}
    (hi : i < u.tt.entries.length) (hs : e.state = .tentative ∨ e.state = .watched ∨ e.state = .yielded) :
    Offered i (e.adopt o rate) u.du.frameIndex u (adoptInPlace i e o rate u) := by
  have hoffer : adoptInPlace i e o rate u = offerLane i u.du.frameIndex (u.setEntry i (some (e.adopt o rate))) := by
    unfold adoptInPlace
    rcases hs with hs | hs | hs <;> simp only [hs] <;> rfl
  rw [hoffer]
  exact offerLane_offered hi _ _

/-- Adoption in place of an OWNED or COASTING entry gives the origin to it, and to its lane if that holds none
(R109). -/
theorem adoptInPlace_owner {i : Nat} {e : Entry} (o : Origin) (rate : Int) (u : State)
    (hs : e.state = .owned ∨ e.state = .coasting) :
    adoptInPlace i e o rate u = { u with
      tt := { u.tt with entries := u.tt.entries.set i (some { e with origin := some o }) }
      ss := e.lane.elim u.ss fun slot => { u.ss with openBlock := u.ss.openBlock.map (copyOrigin slot o) } } := by
  unfold adoptInPlace
  rw [adopt_owner e o rate hs]
  rcases hs with hs | hs <;> cases hl : e.lane <;> simp only [hs] <;> rfl

/-- Settles O43: the entry given is the one that matches, and is adopted by its state. -/
theorem adoptionInPlace : Obligations.AdoptionInPlace := by
  intro cfg x rest k i e s hq hb hid hk hne hlen htarget he at_ rate origin freed hnear hleast
  obtain ⟨hkind, hstation⟩ := kind_station_of_ident hid hk
  have hv := verdict_deliver hkind rfl hstation hk hne (by simpa [lengthAccepted] using hlen)
  have hmatch : matchingEntry s.tt (fun _ => true) (handoverOf x.body).x 12000 = some (i, e) :=
    matchingEntry_eq_some he rfl hnear fun j d hd _ => hleast j d hd
  have hexec : exec .adoption s = .next (adoptInPlace i e origin rate freed) := by
    rw [exec_adoption hq hb hv, takeHandover_matched (u := s.buffersLeft rest) htarget hmatch, hstation]
    rfl
  refine ⟨adoptInPlace i e origin rate freed, hexec, fun hs => ?_, fun hs => ?_⟩
  · rw [← adopt_eq e origin rate hs]
    exact adoptInPlace_offered origin rate (u := freed) (entry_lt he) hs
  · rw [adoptInPlace_owner origin rate freed hs]
    cases e.lane <;> rfl

end Sys2Proof.Machine
end

section
/-! SUPPORT. The next free tag, and adoption as a new entry. -/

namespace Sys2Proof.Machine

/-! ### Tags in use -/

theorem mem_heldLanes {ss : StripStore} {l : Lane} :
    l ∈ ss.heldLanes ↔
      (∃ b, ss.openBlock = some b ∧ l ∈ b.lanes) ∨ (∃ b ∈ ss.settling, l ∈ b.lanes)
        ∨ ∃ b, (.waiting b ∈ ss.banks ∨ .computing b ∈ ss.banks) ∧ l ∈ b.lanes := by
  have hopen : l ∈ (ss.openBlock.map (·.lanes)).getD [] ↔ ∃ b, ss.openBlock = some b ∧ l ∈ b.lanes := by
    cases ss.openBlock <;> simp
  have hbanks : (∃ k ∈ ss.banks, l ∈ k.lanes) ↔
      ∃ b, (.waiting b ∈ ss.banks ∨ .computing b ∈ ss.banks) ∧ l ∈ b.lanes := by
    constructor
    · rintro ⟨k, hk, hl⟩
      cases k with
      | free | filling _ => cases hl
      | waiting b => exact ⟨b, .inl hk, hl⟩
      | computing b => exact ⟨b, .inr hk, hl⟩
    · rintro ⟨b, hk | hk, hl⟩
      · exact ⟨_, hk, hl⟩
      · exact ⟨_, hk, hl⟩
  rw [StripStore.heldLanes, List.mem_append, List.mem_append, hopen, List.mem_flatMap, List.mem_flatMap, hbanks,
    or_assoc]

/-- The model's test of a tag is R91's. -/
theorem tagInUse_iff (s : State) (t : Byte) : tagInUse s t = true ↔ s.UsesTag t := by
  rw [tagInUse, Bool.or_eq_true, List.any_eq_true, List.any_eq_true]
  refine or_congr ?_ ?_
  · constructor
    · rintro ⟨_ | e, hp, ht⟩
      · cases ht
      · obtain ⟨i, hi⟩ := exists_index_of_mem hp
        exact ⟨i, e, hi, by simpa using ht⟩
    · rintro ⟨i, e, hi, rfl⟩
      exact ⟨some e, entry_mem hi, beq_self_eq_true _⟩
  · simp only [mem_heldLanes, beq_iff_eq]
    constructor
    · rintro ⟨l, ⟨b, hb, hl⟩ | ⟨b, hb, hl⟩ | ⟨b, hb, hl⟩, ht⟩
      · exact .inl ⟨b, hb, l, hl, ht⟩
      · exact .inr (.inl ⟨b, hb, l, hl, ht⟩)
      · exact .inr (.inr ⟨b, hb, l, hl, ht⟩)
    · rintro (⟨b, hb, l, hl, ht⟩ | ⟨b, hb, l, hl, ht⟩ | ⟨b, hb, l, hl, ht⟩)
      · exact ⟨l, .inl ⟨b, hb, hl⟩, ht⟩
      · exact ⟨l, .inr (.inl ⟨b, hb, hl⟩), ht⟩
      · exact ⟨l, .inr (.inr ⟨b, hb, hl⟩), ht⟩

/-- Where a tag is free, the next free tag is the first from the next-tag counter up (R91). -/
theorem nextFreeTag_firstFree {s : State} (h : ∃ t, ¬s.UsesTag t) : s.FirstFreeTag (nextFreeTag s) := by
  obtain ⟨t, ht⟩ := h
  have hback : s.tt.nextTag + BitVec.ofNat 8 (t - s.tt.nextTag).toNat = t := by
    rw [BitVec.ofNat_toNat, BitVec.setWidth_eq, BitVec.add_comm, BitVec.sub_add_cancel]
  cases hf : (List.range 256).find? fun k => !tagInUse s (s.tt.nextTag + BitVec.ofNat 8 k) with
  | none =>
    have hall := List.find?_eq_none.mp hf (t - s.tt.nextTag).toNat (List.mem_range.mpr (t - s.tt.nextTag).isLt)
    rw [hback] at hall
    exact absurd ((tagInUse_iff s t).mp (by simpa using hall)) ht
  | some k =>
    obtain ⟨hfree, hk, hbefore⟩ := List.find?_range_eq_some.mp hf
    have hnext : nextFreeTag s = s.tt.nextTag + BitVec.ofNat 8 k := by
      rw [nextFreeTag, List.find?_map]
      exact congrArg (fun o => (Option.map _ o).getD _) hf
    have hcount : (nextFreeTag s - s.tt.nextTag).toNat = k := by
      rw [hnext, BitVec.add_comm, BitVec.add_sub_cancel, BitVec.toNat_ofNat, Nat.mod_eq_of_lt (List.mem_range.mp hk)]
    refine ⟨fun hu => ?_, fun j hj => (tagInUse_iff s _).mp (by simpa using hbefore j (hcount ▸ hj))⟩
    rw [← tagInUse_iff, hnext] at hu
    simp [hu] at hfree

/-! ### Adoption as a new entry -/

/-- A tag and a creation sequence have been taken for a new entry (R91, R92). -/
def State.tagTaken (s : State) : State :=
  { s with tt := { s.tt with nextTag := nextFreeTag s + 1, creationSeq := s.tt.creationSeq + 1 } }

/-- Where room is made, the adopted entry stands there and is offered a lane (R84, R110). -/
theorem adoptNew_offered {h : Handover} {o : Origin} {u w : State} {i : Nat} (hroom : makeRoom [] u = some (i, w))
    (hi : i < w.tt.entries.length) :
    Offered i (adoptedEntry h o (nextFreeTag w) (w.tt.creationSeq + 1)) w.du.frameIndex w.tagTaken (adoptNew h o u) := by
  have hplaced : placeEntry i (adoptedEntry h o) w =
      w.tagTaken.setEntry i (some (adoptedEntry h o (nextFreeTag w) (w.tt.creationSeq + 1))) := rfl
  unfold adoptNew
  simp only [hroom, hplaced]
  exact offerLane_offered (u := w.tagTaken) hi _ _

/-- Where none can be made TABLE_SATURATED is raised (R110). -/
theorem adoptNew_saturated {h : Handover} {o : Origin} {u : State} (hroom : makeRoom [] u = none) :
    adoptNew h o u = u.raise .tableSaturated := by
  unfold adoptNew
  simp only [hroom]

/-- The entry made from a HANDOVER body, its position and rate clamped (R110, R188). -/
theorem adoptedEntry_eq (body : List Byte) (o : Origin) (tag : Byte) (seq : Word32) :
    adoptedEntry (handoverOf body) o tag seq =
      { state := .owned, tag := tag, seq := seq
        x := max (-8000000) (min 8000000 (intOf [body.getD 2 0, body.getD 3 0, body.getD 4 0]))
        v := max (-4000) (min 4000 (intOf [body.getD 5 0, body.getD 6 0])), hits := 3, misses := 0
        height := (body.getD 7 0).toNat * 256 + (body.getD 8 0).toNat
        origin := some o, yieldAge := 0, sharedStreak := 0, partner := none
        lane := none, yieldTarget := none, reclaimMark := false } := by
  have hheight : (handoverOf body).height = (body.getD 7 0).toNat * 256 + (body.getD 8 0).toNat := by
    show (0 * 256 + (body.getD 7 0).toNat) * 256 + (body.getD 8 0).toNat = _
    omega
  rw [adoptedEntry, clampPosition_eq, clampRate_eq, hheight]
  rfl

/-- Settles O44: no entry matches, so the HANDOVER is adopted in a free position, a victim's, or not at all. -/
theorem adoptionAsNewEntry : Obligations.AdoptionAsNewEntry := by
  refine ⟨?_, fun s h => nextFreeTag_firstFree h⟩
  intro cfg x rest k s hq hb hid hk hne hlen htarget at_ rate freed counted adopted hfar
  obtain ⟨hkind, hstation⟩ := kind_station_of_ident hid hk
  have hv := verdict_deliver hkind rfl hstation hk hne (by simpa [lengthAccepted] using hlen)
  have hexec : exec .adoption s = .next (adoptNew (handoverOf x.body) ⟨k + 1, x.body.getD 1 0⟩ freed) := by
    rw [exec_adoption hq hb hv,
      takeHandover_unmatched (u := s.buffersLeft rest) htarget (matchingEntry_eq_none hfar), hstation]
    rfl
  have hadopted (w : State) : adoptedEntry (handoverOf x.body) ⟨k + 1, x.body.getD 1 0⟩ (nextFreeTag w)
      (w.tt.creationSeq + 1) = adopted w := adoptedEntry_eq ..
  refine ⟨fun i hi hempty hbefore => ?_, fun hfull => ?_⟩
  · have hroom : makeRoom [] freed = some (i, freed) :=
      makeRoom_of_free (freePosition_some (t := freed.tt) hi hempty hbefore)
    refine ⟨_, hexec, ?_⟩
    rw [← hadopted freed]
    exact adoptNew_offered hroom hi
  · have hroom : makeRoom [] freed = (victim freed.tt []).map fun i => (i, freeEntry i freed) :=
      makeRoom_of_full (freePosition_none (t := freed.tt) hfull)
    cases hvic : victim freed.tt [] with
    | none =>
      refine .inr ⟨fun j d hd => victim_none hvic j d List.not_mem_nil hd, ?_⟩
      rw [hexec, adoptNew_saturated (by rw [hroom, hvic]; rfl)]
    | some i =>
      obtain ⟨e, he⟩ := victim_is hvic
      have hlen' : (freeEntry i freed).tt.entries.length = s.tt.entries.length := (freeEntry_rowFrame i freed).2
      have hoffer := adoptNew_offered (h := handoverOf x.body) (o := ⟨k + 1, x.body.getD 1 0⟩)
        (hroom.trans (by rw [hvic]; rfl)) (hlen' ▸ entry_lt he.entry)
      rw [hadopted, freeEntry_du] at hoffer
      exact .inl ⟨i, e, _, _, he, freeEntry_freed he.entry, hexec, hoffer⟩

end Sys2Proof.Machine
end

section
/-! SUPPORT. What a SIGHTING resolves or gives up. -/

namespace Sys2Proof.Machine

/-- SIGHTING_TELEGRAM with a SIGHTING that is delivered (R178). -/
theorem exec_sightingTelegram {cfg : Startup} {x : RxTelegram} {rest : List RxTelegram} {s : State} (hq : Quiet cfg s)
    (hb : s.lc.rxBuffers = x :: rest) (hv : verdict true s.src.station x = .deliver .sighting) :
    exec .sightingTelegram s = .next (takeSighting cfg x (s.buffersLeft rest)) :=
  congrArg _ (takeTelegram_delivered takeSighting hq hb hv)

/-! ### A yield resolved -/

/-- The one entry of the tag, when it is YIELDED to the sender, is the one resolved (R112). -/
theorem yieldedTo_eq_some {t : TrackTable} {tag : Byte} {sender i : Nat} {e : Entry} (he : t.entry i = some e)
    (hs : e.state = .yielded) (ht : e.tag = tag) (hy : e.yieldTarget = some sender)
    (hone : ∀ j d, t.entry j = some d → d.tag = tag → j = i) : yieldedTo t tag sender = some i := by
  have hi := entry_lt he
  have hget : t.entries[i] = some e := by
    rwa [TrackTable.entry, List.getD_eq_getElem _ _ hi] at he
  rw [yieldedTo, List.findIdx?_eq_some_iff_getElem]
  refine ⟨hi, by simp [hget, hs, ht, hy], fun j hj => ?_⟩
  have hlt := hj.trans hi
  cases hd : t.entries[j] with
  | none => simp
  | some d =>
    have hne : d.tag ≠ tag := fun h =>
      hj.ne (hone j d (by rw [TrackTable.entry, List.getD_eq_getElem _ _ hlt, hd]) h)
    simp [hne]

/-- With no such entry none is. -/
theorem yieldedTo_eq_none {t : TrackTable} {tag : Byte} {sender : Nat}
    (h : ∀ i e, t.entry i = some e → ¬(e.state = .yielded ∧ e.tag = tag ∧ e.yieldTarget = some sender)) :
    yieldedTo t tag sender = none := by
  rw [yieldedTo, List.findIdx?_eq_none_iff]
  intro p hp
  cases p with
  | none => rfl
  | some e =>
    obtain ⟨i, hi⟩ := exists_index_of_mem hp
    rw [← Bool.not_eq_true]
    simpa [and_assoc] using h i e hi

/-- A SIGHTING whose origin names this head resolves a yield to its sender (R112). -/
theorem takeSighting_resolves (cfg : Startup) {x : RxTelegram} {o : Origin} {u : State} {i : Nat}
    (ho : sightingOriginOf x.body = some o) (hown : o.station = u.src.station)
    (hi : yieldedTo u.tt o.tag x.station = some i) : takeSighting cfg x u = freeEntry i u := by
  simp only [takeSighting, ho, if_pos hown, hi]

/-- It leaves the table alone where there is none. -/
theorem takeSighting_unmatched (cfg : Startup) {x : RxTelegram} {o : Origin} {u : State}
    (ho : sightingOriginOf x.body = some o) (hown : o.station = u.src.station)
    (hnone : yieldedTo u.tt o.tag x.station = none) : takeSighting cfg x u = u := by
  simp only [takeSighting, ho, if_pos hown, hnone]

/-- Settles O45: the SIGHTING is delivered, and frees the entry that it resolves or none. -/
theorem sightingResolvesYield : Obligations.SightingResolvesYield := by
  intro cfg x rest k o s hq hb hid hk hne hlen ho hown
  obtain ⟨hkind, hstation⟩ := kind_station_of_ident hid hk
  have hexec := exec_sightingTelegram hq hb (verdict_deliver hkind rfl hstation hk hne hlen)
  refine ⟨fun i e he hs ht hy hone => ⟨freeEntry i (s.buffersLeft rest), ?_, freeEntry_freed he⟩, fun hnone => ?_⟩
  · rw [hexec, takeSighting_resolves cfg (u := s.buffersLeft rest) ho hown
      (hstation ▸ yieldedTo_eq_some he hs ht hy hone)]
  · rw [hexec, takeSighting_unmatched cfg (u := s.buffersLeft rest) ho hown (hstation ▸ yieldedTo_eq_none hnone)]
    rfl

/-! ### A wire that both heads own -/

/-- This head gives way when it is mounted farther from the wire, or equally far with the higher station (R121). -/
theorem givesWay_iff (mount senderMount lateral : Int) (own sender : Nat) :
    givesWay mount senderMount lateral own sender = true ↔
      (senderMount - lateral).natAbs < (mount - lateral).natAbs
        ∨ (senderMount - lateral).natAbs = (mount - lateral).natAbs ∧ sender < own := by
  simp only [givesWay, Bool.or_eq_true, Bool.and_eq_true, decide_eq_true_eq, beq_iff_eq]
  rw [eq_comm (a := (mount - lateral).natAbs)]

/-- A SIGHTING whose origin does not name this head is checked for duplicate ownership (R120). -/
theorem takeSighting_checks (cfg : Startup) {x : RxTelegram} {u : State}
    (h : ∀ o, sightingOriginOf x.body = some o → o.station ≠ u.src.station) :
    takeSighting cfg x u = checkDuplicate cfg x u := by
  unfold takeSighting
  cases ho : sightingOriginOf x.body with
  | none => rfl
  | some o => exact if_neg (h o ho)

/-- The check, where the sender overlaps and an OWNED or COASTING entry matches (R120, R121). -/
theorem checkDuplicate_matched {cfg : Startup} {x : RxTelegram} {u : State} {i : Nat} {e : Entry} {m : Int}
    (hover : (u.neighbour x.station).overlaps cfg.mountOffset = true)
    (hm : (u.neighbour x.station).mountOffset = some m)
    (hmatch : matchingEntry u.tt (fun e => e.state == .owned || e.state == .coasting) (sightingLateralOf x.body) 6000 =
      some (i, e)) :
    checkDuplicate cfg x u =
      if givesWay cfg.mountOffset m (sightingLateralOf x.body) u.src.station x.station then yieldDuplicate i e u
      else u := by
  simp only [checkDuplicate, if_pos hover, hmatch, hm]

/-- Giving way: the entry becomes WATCHED without a lane and the TAKING lanes of its tag stop (R121, R136). -/
theorem yieldDuplicate_eq (i : Nat) (e : Entry) (u : State) :
    yieldDuplicate i e u = { u with
      tt := { u.tt with entries := u.tt.entries.set i (some { e with state := .watched, lane := none }) }
      ss := u.ss.stopping e.tag fun l => { l with yieldedDup := true } } := by
  rw [yieldDuplicate, stopLanes_yieldedDup]
  rfl

/-- Settles O46: the entry given is the one that matches, and yields exactly when this head gives way. -/
theorem duplicateOwnerGivesWay : Obligations.DuplicateOwnerGivesWay := by
  intro cfg x rest k i e m s hq hb hid hk hne hlen horigin hpresent hm hover wire he hs hnear hleast
  obtain ⟨hkind, hstation⟩ := kind_station_of_ident hid hk
  have howner (d : Entry) : (d.state == .owned || d.state == .coasting) = true ↔
      d.state = .owned ∨ d.state = .coasting := by simp
  have hmatch := matchingEntry_eq_some he ((howner e).mpr hs) hnear fun j d hd hd' => hleast j d hd ((howner d).mp hd')
  have hcheck := checkDuplicate_matched (cfg := cfg) (x := x) (u := s.buffersLeft rest)
    (hstation ▸ (overlaps_iff _ _).mpr ⟨hpresent, m, hm, hover⟩) (hstation ▸ hm) hmatch
  have hexec : exec .sightingTelegram s =
      .next (if givesWay cfg.mountOffset m wire s.src.station (k + 1) then yieldDuplicate i e (s.buffersLeft rest)
        else s.buffersLeft rest) := by
    rw [exec_sightingTelegram hq hb (verdict_deliver hkind rfl hstation hk hne hlen),
      takeSighting_checks cfg (u := s.buffersLeft rest) horigin, hcheck, hstation]
    rfl
  have hgives := givesWay_iff cfg.mountOffset m wire s.src.station (k + 1)
  refine ⟨fun hyields => ?_, fun hkeeps => ?_⟩
  · rw [hexec, if_pos (hgives.mpr hyields), yieldDuplicate_eq]
    rfl
  · rw [hexec, if_neg fun h => ?_]
    · rfl
    · have := hgives.mp h
      omega

end Sys2Proof.Machine
end

section
/-! SUPPORT. The reclaim of a yielded wire. -/

namespace Sys2Proof.Machine

/-- The lit frame of the latest trigger was skipped there (R10, R12). -/
theorem skippedLit_iff (s : State) :
    skippedLit s = true ↔
      s.du.frameIndex.toNat % 8 ≠ 7 ∧ ∃ c, s.ec.cycle = some c ∧ c.frame ≠ s.du.frameIndex := by
  rw [skippedLit, Bool.and_eq_true, Bool.not_eq_true', ← Bool.not_eq_true, isDark_iff]
  cases s.ec.cycle <;> simp

/-- A due reclaim (R116). -/
theorem takeReclaim_due (cfg : Startup) {s : State} {i : Nat} {e : Entry} (he : s.tt.entry i = some e)
    (hs : e.state = .yielded) (ha : 80 ≤ e.yieldAge) : takeReclaim cfg s i = reclaim cfg i e s := by
  unfold takeReclaim
  simp only [he]
  exact if_pos ⟨hs, ha⟩

/-- The state with the record of station k + 1 held back for 256 triggers (R115). -/
def State.targetHeldBack (s : State) (k : Nat) (r : Neighbour) : State :=
  s.setNl (s.nl.set k { r with notTaking := 256, heldBack := true })

/-- A reclaim: the target is held back, the entry is offered a lane, a lane so bound counts a skipped lit frame, and the
zone is latched (R103, R115, R116, R135). -/
theorem reclaim_eq (cfg : Startup) (i : Nat) {k : Nat} {e : Entry} {r : Neighbour} {s : State}
    (ht : e.yieldTarget = some (k + 1)) (hr : s.nl[k]? = some r) :
    reclaim cfg i e s = latchZone cfg (
      let offered := offerLane i s.du.frameIndex ((s.targetHeldBack k r).setEntry i (some e.reclaimed))
      if skippedLit s then skipNewLanes s.ss.boundLanes offered else offered) := by
  have hn : (s.setEntry i
      (some { e with state := .owned, yieldAge := 0, yieldTarget := none, reclaimMark := true })).neighbour (k + 1) = r :=
    neighbour_of_record hr
  unfold reclaim
  simp only [ht, hn]
  rfl

/-- With no lane bound since, none counts the frame. -/
theorem skipNewLanes_none (s : State) : skipNewLanes s.ss.boundLanes s = s := by
  have hnone : (s.ss.openBlock.map fun b => { b with
      lanes := b.lanes.take s.ss.boundLanes
        ++ (b.lanes.drop s.ss.boundLanes).map fun l => { l with skipped := l.skipped + 1 } }) = s.ss.openBlock := by
    unfold StripStore.boundLanes
    cases s.ss.openBlock <;> simp [-List.map_drop]
  rw [skipNewLanes, hnone]
  rfl

/-- The one lane bound since counts it. -/
theorem skipNewLanes_last {s : State} {b : Block} {ls : List Lane} {l : Lane}
    (hb : s.ss.openBlock = some { b with lanes := ls ++ [l] }) :
    skipNewLanes ls.length s =
      s.setSs { s.ss with openBlock := some { b with lanes := ls ++ [{ l with skipped := l.skipped + 1 }] } } := by
  rw [skipNewLanes, hb]
  simp

/-- A reclaim with no lane to bind keeps the reclaim mark (R116). -/
theorem reclaim_refused (cfg : Startup) {i k : Nat} {e : Entry} {r : Neighbour} {s : State}
    (ht : e.yieldTarget = some (k + 1)) (hr : s.nl[k]? = some r) (hi : i < s.tt.entries.length)
    (hfull : ∀ b, s.ss.openBlock = some b → 8 ≤ b.lanes.length) :
    reclaim cfg i e s = latchZone cfg ((s.targetHeldBack k r).setEntry i (some e.reclaimed)) := by
  have hoffer : offerLane i s.du.frameIndex ((s.targetHeldBack k r).setEntry i (some e.reclaimed)) =
      (s.targetHeldBack k r).setEntry i (some e.reclaimed) :=
    (offerLane_offered (u := s.targetHeldBack k r) hi e.reclaimed s.du.frameIndex).2 hfull
  rw [reclaim_eq cfg i ht hr, hoffer]
  dsimp only
  split
  · exact congrArg _ (skipNewLanes_none _)
  · rfl

/-- The lane that a reclaim binds: its range begins with the trigger's frame, which it counts when that was lit and
skipped (R116, R129, R135). -/
def reclaimedLane (e : Entry) (slot : Nat) (s : State) : Lane :=
  { newLane e.reclaimed slot s.du.frameIndex with skipped := if skippedLit s then 1 else 0 }

/-- A reclaim with a lane to bind hands the reclaim mark to it (R116). -/
theorem reclaim_bound (cfg : Startup) {i k : Nat} {e : Entry} {r : Neighbour} {b : Block} {s : State}
    (ht : e.yieldTarget = some (k + 1)) (hr : s.nl[k]? = some r) (hi : i < s.tt.entries.length)
    (hb : s.ss.openBlock = some b) (hl : b.lanes.length < 8) :
    reclaim cfg i e s = latchZone cfg (((s.targetHeldBack k r).setEntry i
        (some { e.reclaimed with lane := some b.lanes.length, reclaimMark := false })).setSs
      { s.ss with openBlock := some { b with lanes := b.lanes ++ [reclaimedLane e b.lanes.length s] } }) := by
  have hoffer : offerLane i s.du.frameIndex ((s.targetHeldBack k r).setEntry i (some e.reclaimed)) =
      ((s.targetHeldBack k r).setEntry i
        (some { e.reclaimed with lane := some b.lanes.length, reclaimMark := false })).setSs { s.ss with
          openBlock := some { b with lanes := b.lanes ++ [newLane e.reclaimed b.lanes.length s.du.frameIndex] } } :=
    (offerLane_offered (u := s.targetHeldBack k r) hi e.reclaimed s.du.frameIndex).1 b hb hl
  have hbound : s.ss.boundLanes = b.lanes.length := by rw [StripStore.boundLanes, hb]; rfl
  rw [reclaim_eq cfg i ht hr, hoffer, hbound, reclaimedLane]
  dsimp only
  split
  · exact congrArg _ (skipNewLanes_last rfl)
  · rfl

/-- Settles O18: the reclaim with no lane to bind, and with one. -/
theorem reclaimTakesWireBack : Obligations.ReclaimTakesWireBack := by
  intro cfg i k e r s hp hd he hs ha ht hr
  have hi := entry_lt he
  refine ⟨reclaim cfg i e s, ?_, ?_⟩
  · rw [exec_yieldReclaim i ⟨hp, hd⟩, takeReclaim_due cfg he hs ha]
  by_cases hfull : ∀ b, s.ss.openBlock = some b → 8 ≤ b.lanes.length
  · rw [reclaim_refused cfg ht hr hi hfull]
    exact ⟨rfl, fun j hj => entry_setEntry_ne hj, fun _ => ⟨rfl, entry_setEntry_self (s := s.targetHeldBack k r) hi⟩,
      fun b hb hl => absurd (hfull b hb) (Nat.not_le.mpr hl)⟩
  · simp only [not_forall, not_le] at hfull
    obtain ⟨b, hb, hl⟩ := hfull
    rw [reclaim_bound cfg ht hr hi hb hl]
    refine ⟨rfl, fun j hj => entry_setEntry_ne hj, fun h => absurd (h b hb) (Nat.not_le.mpr hl), fun b' hb' _ => ?_⟩
    obtain rfl : b = b' := Option.some.inj (hb.symm.trans hb')
    refine ⟨entry_setEntry_self (s := s.targetHeldBack k r) hi, reclaimedLane e b.lanes.length s, rfl, rfl, rfl, rfl,
      rfl, rfl, rfl, rfl, rfl, ?_⟩
    simp only [reclaimedLane, skippedLit_iff]

end Sys2Proof.Machine
end

section
/-! SUPPORT. The completion of a bank, and what a SIGHTING carries. -/

namespace Sys2Proof.Machine

/-! ### The waiting bank -/

theorem waitingBank_some {ss : StripStore} {j : Nat} {w : Block} (h : ss.waitingBank = some (j, w)) :
    ss.banks[j]? = some (.waiting w) := by
  obtain ⟨⟨k, i⟩, hm, hk⟩ := List.exists_of_findSome?_eq_some h
  rw [List.mk_mem_zipIdx_iff_getElem?] at hm
  cases k with
  | free | filling _ | computing _ => cases hk
  | waiting b => cases hk; exact hm

theorem waitingBank_none {ss : StripStore} (h : ss.waitingBank = none) (j : Nat) (w : Block) :
    ss.banks[j]? ≠ some (.waiting w) := by
  intro hj
  have := List.findSome?_eq_none_iff.mp h (.waiting w, j) (List.mk_mem_zipIdx_iff_getElem?.mpr hj)
  cases this

/-! ### The completion -/

/-- The Strip Store once bank `k` has been computed (R138). -/
def StripStore.bankComputed (ss : StripStore) (k : Nat) : StripStore :=
  { ss with banks := ss.banks.set k .free, computing := none }

/-- A bank that waits beside the one computed still waits once that is FREE. -/
theorem bankComputed_waiting {ss : StripStore} {k : Nat} {b : Block} (hk : ss.banks[k]? = some (.computing b)) (j : Nat)
    (w : Block) : (ss.bankComputed k).banks[j]? = some (.waiting w) ↔ ss.banks[j]? = some (.waiting w) := by
  show (ss.banks.set k .free)[j]? = _ ↔ _
  by_cases h : k = j
  · subst h
    simp [List.getElem?_set, hk]
  · rw [List.getElem?_set_ne h]

theorem resultOf_eq {cfg : Startup} {b : Block} {cls : WireClass} (h : cfg.classes[b.cls]? = some cls) :
    resultOf cfg b = laneResult cfg cls := by
  funext l
  simp only [resultOf, h]

/-- The state once the lanes of the computed bank `k` have been reported and the bank is FREE (R138). -/
def bankReported (cfg : Startup) (k : Nat) (b : Block) (cls : WireClass) (s : State) : State :=
  { reported cfg b (laneResult cfg cls) b.lanes s with ss := s.ss.bankComputed k }

/-- The completion of a bank: its lanes are reported, it is FREE, and a waiting bank starts computing (R138). -/
theorem completeBank_eq {cfg : Startup} (k : Nat) {b : Block} {cls : WireClass} (s : State)
    (hcls : cfg.classes[b.cls]? = some cls) :
    completeBank cfg k b s =
      ((s.ss.bankComputed k).waitingBank.map fun p => startCompute p.1 p.2 (bankReported cfg k b cls s)).getD
        (bankReported cfg k b cls s) := by
  have hr : reportBlock cfg b (resultOf cfg b) s = reported cfg b (laneResult cfg cls) b.lanes s := by
    rw [resultOf_eq hcls]
    exact reportLanes_eq cfg b _ b.lanes s
  have hs : (reported cfg b (laneResult cfg cls) b.lanes s).setSs (s.ss.bankComputed k) = bankReported cfg k b cls s :=
    rfl
  unfold completeBank
  rw [hr]
  change (match (s.ss.bankComputed k).waitingBank with
    | some (j, w) => startCompute j w ((reported cfg b (laneResult cfg cls) b.lanes s).setSs (s.ss.bankComputed k))
    | none => (reported cfg b (laneResult cfg cls) b.lanes s).setSs (s.ss.bankComputed k)) = _
  rw [hs]
  cases (s.ss.bankComputed k).waitingBank <;> rfl

/-- WEAR_COMPLETE while bank `k` is computed (R137, R138). -/
theorem exec_wearComplete {cfg : Startup} {k : Nat} {b : Block} {s : State} (hq : Quiet cfg s)
    (hc : s.ss.computing = some k) (hk : s.ss.banks[k]? = some (.computing b)) :
    exec .wearComplete s = .next (completeBank cfg k b s) := by
  have hb : s.ss.computingBank = some (k, b) := by simp only [StripStore.computingBank, hc, hk]
  refine (congrArg Host.Outcome.next (inOperating_quiet hq)).trans ?_
  simp only [hb]

/-! ### Rounding -/

/-- The signed mean is rounded half away from zero (R167). -/
theorem roundHalfAway_rounds (a : Int) {n : Nat} (hn : n ≠ 0) : RoundsHalfAway (roundHalfAway a n) a n := by
  have hpos : (0 : Int) < 2 * n := by omega
  have hdiv (c : Int) : 2 * (c / (2 * n) * n) + c % (2 * n) = c := by
    have := Int.ediv_mul_add_emod c (2 * n)
    rwa [mul_left_comm] at this
  unfold RoundsHalfAway roundHalfAway
  split
  · have := hdiv (2 * a + n)
    have := Int.emod_nonneg (2 * a + n) hpos.ne'
    have := Int.emod_lt_of_pos (2 * a + n) hpos
    omega
  · rw [neg_mul]
    have := hdiv (2 * -a + n)
    have := Int.emod_nonneg (2 * -a + n) hpos.ne'
    have := Int.emod_lt_of_pos (2 * -a + n) hpos
    omega

/-- The mean of what cannot be negative is rounded half up (R167). -/
theorem roundHalfUp_rounds (a : Nat) {n : Nat} (hn : n ≠ 0) :
    2 * n * roundHalfUp a n ≤ 2 * a + n ∧ 2 * a + n < 2 * n * (roundHalfUp a n + 1) :=
  ⟨Nat.mul_div_le _ _, Nat.lt_mul_div_succ _ (by omega)⟩

/-! ### The flags of a SIGHTING -/

theorem SightFlag.bit_lt (f : SightFlag) : f.bit < 20 := by cases f <;> decide

theorem SightFlag.bit_injective : Function.Injective SightFlag.bit := by
  have h : ∀ f, SightFlag.ofNat f.bit = f := by intro f; cases f <;> rfl
  exact Function.LeftInverse.injective h

/-- One more flag set in a field (R189). -/
theorem isSetIn_or (f g : SightFlag) (w : BitVec 24) :
    f.isSetIn (w ||| BitVec.ofNat 24 (2 ^ g.bit)) = true ↔ f.isSetIn w = true ∨ f = g := by
  have hf := f.bit_lt
  rw [SightFlag.isSetIn, BitVec.getLsbD_or, BitVec.getLsbD_ofNat, Nat.testBit_two_pow, Bool.or_eq_true, Bool.and_eq_true,
    decide_eq_true_eq, decide_eq_true_eq, SightFlag.bit_injective.eq_iff, eq_comm (a := g)]
  exact or_congr_right (and_iff_right (by omega))

/-- The flags field with one more flag where its condition is true (R189). -/
def flagAdded (w : BitVec 24) (p : SightFlag × Bool) : BitVec 24 :=
  if p.2 then w ||| BitVec.ofNat 24 (2 ^ p.1.bit) else w

theorem sightFlags_eq (fs : List (SightFlag × Bool)) : sightFlags fs = fs.foldl flagAdded 0 := rfl

theorem isSetIn_flagAdded (f : SightFlag) (w : BitVec 24) (p : SightFlag × Bool) :
    f.isSetIn (flagAdded w p) = true ↔ f.isSetIn w = true ∨ (f, true) = p := by
  obtain ⟨g, c⟩ := p
  cases c
  · simp [flagAdded]
  · rw [flagAdded, if_pos rfl, isSetIn_or]
    simp

/-- A flag is set in the field exactly when it is listed with a true condition (R189). -/
theorem isSetIn_sightFlags (f : SightFlag) (fs : List (SightFlag × Bool)) :
    f.isSetIn (sightFlags fs) = true ↔ (f, true) ∈ fs := by
  have hfold : ∀ (fs : List (SightFlag × Bool)) (w : BitVec 24),
      f.isSetIn (fs.foldl flagAdded w) = true ↔ f.isSetIn w = true ∨ (f, true) ∈ fs := by
    intro fs
    induction fs with
    | nil => simp
    | cons p fs ih =>
      intro w
      rw [List.foldl_cons, ih, isSetIn_flagAdded, List.mem_cons, or_assoc]
  rw [sightFlags_eq, hfold]
  simp [SightFlag.isSetIn]

/-- Bits 20 to 23 of the flags field are 0 (R189). -/
theorem sightFlags_lt (fs : List (SightFlag × Bool)) : (sightFlags fs).toNat < 2 ^ 20 := by
  rw [sightFlags_eq]
  refine List.foldlRecOn fs flagAdded (b := 0) (motive := fun w => w.toNat < 2 ^ 20) (Nat.two_pow_pos 20)
    fun w hw p _ => ?_
  unfold flagAdded
  split
  · rw [BitVec.toNat_or, BitVec.toNat_ofNat]
    exact Nat.or_lt_two_pow hw ((Nat.mod_le _ _).trans_lt (Nat.pow_lt_pow_right (by decide) p.1.bit_lt))
  · exact hw

/-- The stagger mean is above the limit of the block's class, with the alert enabled (R168). -/
theorem overStaggerLimit_iff (cfg : Startup) (cls : Nat) (mean : Int) :
    overStaggerLimit cfg cls mean = true ↔
      cfg.alertStagger = true ∧ ∃ c, cfg.classes[cls]? = some c ∧ c.staggerLimit < mean.natAbs := by
  unfold overStaggerLimit
  cases cfg.classes[cls]? <;> simp

/-- When each flag of a lane's SIGHTING is set (R139, R155, R168, R189). -/
def SightFlag.Holds (cfg : Startup) (b : Block) (r : LaneResult) (l : Lane) : SightFlag → Prop
  | .wearPresent => r.wear ≠ none
  | .originPresent => l.origin ≠ none
  | .crossing => l.crossing = true
  | .noFace => r.noFace = true
  | .fewRows => r.fewRows = true
  | .widthSaturated => r.widthSaturated = true
  | .windowEdge => r.windowEdge = true
  | .bankStarved => b.starved = true
  | .belowLimit => r.belowLimit = true
  | .staggerLimit => cfg.alertStagger = true
      ∧ ∃ cls, cfg.classes[b.cls]? = some cls ∧ cls.staggerLimit < (sightingOf cfg b r l).staggerMean.natAbs
  | .attHeld => l.acc.attHeld = true
  | .uncorrected => l.acc.uncorrected = true
  | .ambient => b.ambient = true
  | .decimated => b.decimated = true
  | .ended => l.ended = true
  | .handed => l.handed = true
  | .yieldedDup => l.yieldedDup = true
  | .reclaimed => l.reclaimed = true
  | .clamped => l.acc.clamped = true
  | .shortBlock => b.short = true

theorem isSetIn_sighting (cfg : Startup) (b : Block) (r : LaneResult) (l : Lane) (f : SightFlag) :
    f.isSetIn (sightingOf cfg b r l).flags = true ↔ f.Holds cfg b r l := by
  rw [sightingOf, isSetIn_sightFlags]
  cases f
  case wearPresent | originPresent => simp [SightFlag.Holds, Option.isSome_iff_ne_none]
  case staggerLimit =>
    rw [SightFlag.Holds, ← overStaggerLimit_iff]
    simp [sightingOf]
  all_goals simp [SightFlag.Holds]

/-! ### WEAR_COMPLETE -/

/-- What the completion of a bank leaves, by the bank that waits (R137, R138; log 18). -/
theorem completeBank_result {cfg : Startup} {k : Nat} {b : Block} {cls : WireClass} {s : State}
    (hk : s.ss.banks[k]? = some (.computing b)) (hcls : cfg.classes[b.cls]? = some cls) :
    ((∀ w, Bank.waiting w ∉ s.ss.banks) ∧ completeBank cfg k b s = bankReported cfg k b cls s)
    ∨ ∃ j w, s.ss.banks[j]? = some (.waiting w)
        ∧ completeBank cfg k b s = startCompute j w (bankReported cfg k b cls s) := by
  rw [completeBank_eq k s hcls]
  cases hw : (s.ss.bankComputed k).waitingBank with
  | none =>
    refine .inl ⟨fun w hm => ?_, rfl⟩
    obtain ⟨j, hj⟩ := List.mem_iff_getElem?.mp hm
    exact waitingBank_none hw j w ((bankComputed_waiting hk j w).mpr hj)
  | some p => exact .inr ⟨p.1, p.2, (bankComputed_waiting hk _ _).mp (waitingBank_some hw), rfl⟩

/-- Settles O37: the completion by the bank that waits, and the fields of a SIGHTING. -/
theorem wearCompletionReportsLanes : Obligations.WearCompletionReportsLanes := by
  refine ⟨fun cfg k b cls s hq hc hk hcls => ⟨completeBank cfg k b s, exec_wearComplete hq hc hk, ?_⟩, ?_⟩
  · rcases completeBank_result hk hcls with ⟨hnone, ht⟩ | ⟨j, w, hj, ht⟩
    · rw [ht]
      exact ⟨rfl, fun _ => ⟨rfl, rfl⟩, fun j w hj => absurd (List.mem_of_getElem? hj) (hnone w)⟩
    · have hany : ¬∀ w, Bank.waiting w ∉ s.ss.banks := fun h => h w (List.mem_of_getElem? hj)
      have hone {j' : Nat} {w' : Block} (hj' : s.ss.banks[j']? = some (.waiting w'))
          (h : ∀ i v, s.ss.banks[i]? = some (.waiting v) → i = j') : j = j' ∧ w = w' := by
        obtain rfl := h j w hj
        rw [hj] at hj'
        cases hj'
        exact ⟨rfl, rfl⟩
      rcases startCompute_cases j w (bankReported cfg k b cls s) with ⟨⟨l, hl, hhit⟩, e⟩ | ⟨hnohit, e⟩
      · rw [ht, e]
        refine ⟨rfl, fun h => absurd h hany, fun j' w' hj' h => ?_⟩
        obtain ⟨rfl, rfl⟩ := hone hj' h
        exact ⟨fun _ => ⟨rfl, rfl⟩, fun h0 => absurd (h0 l hl) hhit⟩
      · rw [ht, e]
        refine ⟨rfl, fun h => absurd h hany, fun j' w' hj' h => ?_⟩
        obtain ⟨rfl, rfl⟩ := hone hj' h
        exact ⟨fun ⟨l, hl, hhit⟩ => absurd (hnohit l hl) hhit, fun _ => ⟨rfl, rfl⟩⟩
  · intro cfg b c r l hc hn g holds
    have hclosing : b.closing.getD ⟨b.openFrame, b.openDistance⟩ = c := by rw [hc]; rfl
    have hdistance : g.closeDistance = c.distance := congrArg Closing.distance hclosing
    have hframes : g.frames = (c.lastFrame - b.openFrame).toNat + 1 :=
      congrArg (fun c : Closing => framesFrom b.openFrame c.lastFrame) hclosing
    have hholds : holds = SightFlag.Holds cfg b r l := by funext f; cases f <;> rfl
    refine ⟨rfl, rfl, rfl, rfl, rfl, rfl, rfl, rfl, rfl, rfl, hdistance, hframes, roundHalfAway_rounds _ hn,
      roundHalfAway_rounds _ hn, roundHalfUp_rounds _ hn, fun x hx => ?_, fun x hx => ?_, rfl, fun f => ?_,
      sightFlags_lt _⟩
    · exact congrArg (·.getD 0) hx
    · exact congrArg (·.getD 0) hx
    · rw [hholds]
      exact isSetIn_sighting cfg b r l f

end Sys2Proof.Machine
end

section
/-! SUPPORT. What the invariants of the Strip Store speak of: the blocks it holds, who owns which bank, and the tags of
the entries. -/

namespace Sys2Proof.Machine

/-! ### The blocks that the Strip Store holds -/

/-- The settled block of a bank that waits or is computed. -/
def StripStore.BankHolds (ss : StripStore) (b : Block) : Prop := .waiting b ∈ ss.banks ∨ .computing b ∈ ss.banks

/-- A block that is open, held settling, or settled in a bank. -/
def StripStore.Holds (ss : StripStore) (b : Block) : Prop :=
  ss.openBlock = some b ∨ b ∈ ss.settling ∨ ss.BankHolds b

theorem stripsBounded_iff (s : State) : s.StripsBounded ↔ ∀ b, s.ss.Holds b → b.StripsBounded := by
  constructor
  · rintro ⟨hopen, hsettling, hbanks⟩ b (h | h | h)
    · exact hopen b h
    · exact hsettling b h
    · exact hbanks b h
  · exact fun h => ⟨fun b hb => h b (.inl hb), fun b hb => h b (.inr (.inl hb)), fun b hb => h b (.inr (.inr hb))⟩

/-- The bound on the strip rows of a lane of a block with a bank or none (R134, R140). -/
def Lane.StripsBounded (bank : Option Nat) (l : Lane) : Prop :=
  l.strips.length ≤ Config.stripRows ∧ l.strips.length ≤ l.hitFrames ∧ (bank = none → l.strips = [])

/-- The bound speaks of the strip rows and the hits alone. -/
theorem Lane.StripsBounded.congr {bank : Option Nat} {l m : Lane} (h : l.StripsBounded bank)
    (hs : m.strips = l.strips) (hh : m.hitFrames = l.hitFrames) : m.StripsBounded bank := by
  unfold Lane.StripsBounded at *
  rw [hs, hh]
  exact h

theorem newLane_stripsBounded (bank : Option Nat) (e : Entry) (slot : Nat) (f : Word32) :
    (newLane e slot f).StripsBounded bank := ⟨Nat.zero_le _, Nat.zero_le _, fun _ => rfl⟩

/-- A hit adds a strip row at most, below 28, with a bank, and counts as a hit (R134). -/
theorem writeHit_stripsBounded (cfg : Startup) (su : StaggerUnit) (row : RowInProcess) (c : Candidate) (shared : Bool)
    {b : Block} {l : Lane} (h : l.StripsBounded b.bank) : (writeHit cfg su row c shared b l).StripsBounded b.bank := by
  obtain ⟨hmax, hhits, hstarved⟩ := h
  unfold writeHit
  by_cases hw : row.cls = .full ∧ b.bank.isSome ∧ l.strips.length < Config.stripRows
  · obtain ⟨-, hbank, hroom⟩ := id hw
    rw [if_pos hw]
    unfold Lane.StripsBounded
    simp only [List.length_append, List.length_singleton]
    exact ⟨hroom, Nat.succ_le_succ hhits, fun hn => by rw [hn] at hbank; cases hbank⟩
  · rw [if_neg hw]
    exact ⟨hmax, Nat.le_succ_of_le hhits, hstarved⟩

/-- What every change to a block keeps: who it is, the bound on its strip rows and the number of lanes it may bind. -/
structure Block.Kept (b c : Block) : Prop where
  seq : c.seq = b.seq
  bank : c.bank = b.bank
  strips : b.StripsBounded → c.StripsBounded
  lanes : b.lanes.length ≤ 8 → c.lanes.length ≤ 8

theorem Block.Kept.refl (b : Block) : b.Kept b := ⟨rfl, rfl, id, id⟩

theorem Block.Kept.trans {a b c : Block} (h1 : a.Kept b) (h2 : b.Kept c) : a.Kept c :=
  ⟨h2.seq.trans h1.seq, h2.bank.trans h1.bank, h2.strips ∘ h1.strips, h2.lanes ∘ h1.lanes⟩

/-- A change to each lane that keeps its bound. -/
theorem Block.mapLanes_kept {b : Block} {g : Lane → Lane}
    (h : ∀ l, l.StripsBounded b.bank → (g l).StripsBounded b.bank) : b.Kept (b.mapLanes g) := by
  refine ⟨rfl, rfl, fun hb l hl => ?_, (List.length_map g).le.trans⟩
  obtain ⟨l', hl', rfl⟩ := List.mem_map.mp hl
  exact h l' (hb l' hl')

/-- A change to each lane that leaves its strip rows and hits alone. -/
theorem Block.mapLanes_kept_of_eq (b : Block) {g : Lane → Lane} (hs : ∀ l, (g l).strips = l.strips)
    (hh : ∀ l, (g l).hitFrames = l.hitFrames) : b.Kept (b.mapLanes g) :=
  mapLanes_kept fun l hl => hl.congr (hs l) (hh l)

/-- A lane that is bound while fewer than 8 are (R129). -/
theorem Block.bindLane_kept {b : Block} (hl : b.lanes.length < 8) (e : Entry) (slot : Nat) (f : Word32) :
    b.Kept { b with lanes := b.lanes ++ [newLane e slot f] } := by
  refine ⟨rfl, rfl, fun hb l hm => ?_, fun _ => ?_⟩
  · rcases List.mem_append.mp hm with hm | hm
    · exact hb l hm
    · rw [List.mem_singleton.mp hm]
      exact newLane_stripsBounded _ _ _ _
  · rw [List.length_append, List.length_singleton]
    exact hl

theorem Block.finish_kept (b : Block) : b.Kept (b.mapLanes Lane.finish) :=
  b.mapLanes_kept_of_eq (fun l => by unfold Lane.finish; split <;> rfl) (fun l => by unfold Lane.finish; split <;> rfl)

theorem Block.close_kept (b : Block) (last d : Word32) : b.Kept (b.close last d) := ⟨rfl, rfl, id, id⟩

theorem countOwed_kept (s : State) (b : Block) : b.Kept (countOwed s b) :=
  b.mapLanes_kept_of_eq (fun l => by split <;> rfl) (fun l => by split <;> rfl)

theorem skipInLanes_kept (b : Block) : b.Kept (skipInLanes b) :=
  b.mapLanes_kept_of_eq (fun l => by split <;> rfl) (fun l => by split <;> rfl)

theorem copyOrigin_kept (slot : Nat) (o : Origin) (b : Block) : b.Kept (copyOrigin slot o b) :=
  b.mapLanes_kept_of_eq (fun l => by split <;> rfl) (fun l => by split <;> rfl)

/-- Each block of `v` is one of `u` but for such changes, or a new one with fresh lanes. -/
def BlocksKept (u v : StripStore) : Prop :=
  ∀ c, v.Holds c → (c.StripsBounded ∧ c.lanes.length ≤ 8) ∨ ∃ b, u.Holds b ∧ b.Kept c

theorem BlocksKept.refl (u : StripStore) : BlocksKept u u := fun b hb => .inr ⟨b, hb, .refl b⟩

theorem BlocksKept.trans {u v w : StripStore} (h1 : BlocksKept u v) (h2 : BlocksKept v w) : BlocksKept u w := by
  intro d hd
  rcases h2 d hd with h | ⟨c, hc, hcd⟩
  · exact .inl h
  · rcases h1 c hc with ⟨hs, hl⟩ | ⟨b, hb, hbc⟩
    · exact .inl ⟨hcd.strips hs, hcd.lanes hl⟩
    · exact .inr ⟨b, hb, hbc.trans hcd⟩

/-! ### Who owns a bank -/

/-- The FILLING bank that a block owns, with the sequence by which the bank names it; none when starved (R127). -/
def Block.owner (b : Block) : Option (Nat × Word16) := b.bank.map fun k => (k, b.seq)

theorem Block.Kept.owner {b c : Block} (h : b.Kept c) : c.owner = b.owner := by
  unfold Block.owner
  rw [h.seq, h.bank]

/-- What the open block and the blocks held settling own. -/
def StripStore.owners (ss : StripStore) : List (Nat × Word16) :=
  ss.openBlock.toList.filterMap Block.owner ++ ss.settling.filterMap Block.owner

/-- Each owner has a FILLING bank of its own, and the Wear Unit computes the one COMPUTING bank (R126, R132, R137). -/
structure OwnedBy (owners : List (Nat × Word16)) (banks : List Bank) (computing : Option Nat) : Prop where
  two : banks.length = 2
  filling : ∀ p ∈ owners, banks[p.1]? = some (.filling p.2)
  distinct : (owners.map Prod.fst).Nodup
  computes : ∀ k, (∃ b, banks[k]? = some (.computing b)) ↔ computing = some k

/-- The ownership that the invariant states: no block held settling is starved. -/
structure StripStore.Owned (ss : StripStore) : Prop where
  owned : OwnedBy ss.owners ss.banks ss.computing
  banked : ∀ b ∈ ss.settling, b.bank ≠ none

theorem OwnedBy.perm {l m : List (Nat × Word16)} {banks : List Bank} {c : Option Nat} (h : OwnedBy l banks c)
    (hp : l.Perm m) : OwnedBy m banks c :=
  ⟨h.two, fun p hm => h.filling p (hp.mem_iff.mpr hm), (hp.map Prod.fst).nodup_iff.mp h.distinct, h.computes⟩

theorem OwnedBy.sublist {l m : List (Nat × Word16)} {banks : List Bank} {c : Option Nat} (h : OwnedBy l banks c)
    (hs : m.Sublist l) : OwnedBy m banks c :=
  ⟨h.two, fun p hm => h.filling p (hs.subset hm), h.distinct.sublist (hs.map _), h.computes⟩

theorem owner_bank (b : Block) : b.owner.map Prod.fst = b.bank := by
  unfold Block.owner
  cases b.bank <;> rfl

theorem owners_banks (ss : StripStore) :
    ss.owners.map Prod.fst = ss.openBank ++ ss.settling.filterMap (·.bank) := by
  have hmap (l : List Block) : (l.filterMap Block.owner).map Prod.fst = l.filterMap (·.bank) := by
    rw [List.map_filterMap]
    exact List.filterMap_congr fun b _ => owner_bank b
  rw [StripStore.owners, List.map_append, hmap, hmap, StripStore.openBank]
  cases ss.openBlock with
  | none => rfl
  | some b => cases h : b.bank <;> simp [h]

theorem mem_owners {ss : StripStore} {p : Nat × Word16} :
    p ∈ ss.owners ↔ ∃ b, (ss.openBlock = some b ∨ b ∈ ss.settling) ∧ b.bank = some p.1 ∧ b.seq = p.2 := by
  have howner (b : Block) : b.owner = some p ↔ b.bank = some p.1 ∧ b.seq = p.2 := by
    rw [Block.owner, Option.map_eq_some_iff]
    constructor
    · rintro ⟨k, hk, rfl⟩
      exact ⟨hk, rfl⟩
    · rintro ⟨hk, hq⟩
      exact ⟨p.1, hk, by rw [hq]⟩
  rw [StripStore.owners, List.mem_append, List.mem_filterMap, List.mem_filterMap, ← exists_or]
  simp only [howner, Option.mem_toList, or_and_right]

/-- With two banks at most two blocks are held settling (R132). -/
theorem StripStore.Owned.settling_length {ss : StripStore} (h : ss.Owned) : ss.settling.length ≤ 2 := by
  obtain ⟨⟨htwo, hfilling, hdistinct, -⟩, hbanked⟩ := h
  have hlen : (ss.settling.filterMap (·.bank)).length = ss.settling.length :=
    List.filterMap_length_eq_length.mpr fun b hb => Option.isSome_iff_ne_none.mpr (hbanked b hb)
  rw [owners_banks] at hdistinct
  have hsub : ss.settling.filterMap (·.bank) ⊆ List.range 2 := fun k hk => by
    obtain ⟨b, hb, hbk⟩ := List.mem_filterMap.mp hk
    have hbank := hfilling (k, b.seq) (mem_owners.mpr ⟨b, .inr hb, hbk, rfl⟩)
    rw [List.mem_range, ← htwo]
    exact (List.getElem?_eq_some_iff.mp hbank).1
  calc ss.settling.length = (ss.settling.filterMap (·.bank)).length := hlen.symm
    _ ≤ (List.range 2).length := ((List.nodup_append.mp hdistinct).2.1.subperm hsub).length_le
    _ = 2 := rfl

theorem banksOwned_iff (s : State) : s.BanksOwned ↔ s.ss.Owned := by
  constructor
  · rintro ⟨htwo, hopen, hsettling, hdistinct, hcomputing, -⟩
    refine ⟨⟨htwo, fun p hp => ?_, by rw [owners_banks]; exact hdistinct, hcomputing⟩, fun b hb hn => ?_⟩
    · obtain ⟨b, hb | hb, hk, hq⟩ := mem_owners.mp hp
      · rw [← hq]
        exact hopen b p.1 hb hk
      · obtain ⟨k, hk', hf⟩ := hsettling b hb
        rw [hk, Option.some.injEq] at hk'
        rw [hk', hf, hq]
    · obtain ⟨k, hk, -⟩ := hsettling b hb
      rw [hn] at hk
      cases hk
  · intro h
    obtain ⟨⟨htwo, hfilling, hdistinct, hcomputing⟩, hbanked⟩ := id h
    refine ⟨htwo, fun b k hb hk => hfilling (k, b.seq) (mem_owners.mpr ⟨b, .inl hb, hk, rfl⟩), fun b hb => ?_,
      by rw [← owners_banks]; exact hdistinct, hcomputing, h.settling_length⟩
    obtain ⟨k, hk⟩ := Option.ne_none_iff_exists'.mp (hbanked b hb)
    exact ⟨k, hk, hfilling (k, b.seq) (mem_owners.mpr ⟨b, .inr hb, hk, rfl⟩)⟩

/-! ### The rules for banks -/

/-- What becomes of the bank of a block that settles: FREE or WAITING, or COMPUTING when the Wear Unit was idle
(R132, R137). -/
inductive BankSettled (k : Nat) (b : Block) : Option Nat → Bank → Option Nat → Prop where
  | freed (c : Option Nat) : BankSettled k b c .free c
  | waits (c : Option Nat) : BankSettled k b c (.waiting b) c
  | computed : BankSettled k b none (.computing b) (some k)

/-- A bank that none of the owners has changes state; the Wear Unit computes it exactly when it becomes COMPUTING. -/
theorem OwnedBy.setBank {k : Nat} {l : List (Nat × Word16)} {banks : List Bank} {c c' : Option Nat} {x : Bank}
    (h : OwnedBy l banks c) (hlt : k < banks.length) (hk : ∀ p ∈ l, p.1 ≠ k)
    (hself : (∃ b, x = .computing b) ↔ c' = some k) (hother : ∀ j ≠ k, (c' = some j ↔ c = some j)) :
    OwnedBy l (banks.set k x) c' := by
  obtain ⟨htwo, hfilling, hdistinct, hcomputes⟩ := h
  refine ⟨by rw [List.length_set]; exact htwo, fun p hp => ?_, hdistinct, fun j => ?_⟩
  · rw [List.getElem?_set_ne (hk p hp).symm]
    exact hfilling p hp
  · by_cases hj : j = k
    · subst hj
      rw [List.getElem?_set_self hlt, ← hself]
      simp only [Option.some.injEq]
    · rw [List.getElem?_set_ne (Ne.symm hj), hother j hj, hcomputes j]

/-- A bank that is not FILLING has no owner. -/
theorem OwnedBy.unowned {k : Nat} {l : List (Nat × Word16)} {banks : List Bank} {c : Option Nat} {y : Bank}
    (h : OwnedBy l banks c) (hk : banks[k]? = some y) (hy : ∀ q, y ≠ .filling q) : ∀ p ∈ l, p.1 ≠ k := by
  intro p hp he
  have hf := h.filling p hp
  rw [he, hk, Option.some.injEq] at hf
  exact hy _ hf

/-- A block that settles gives its bank up; the other owners keep theirs. -/
theorem OwnedBy.settle {k : Nat} {q : Word16} {l : List (Nat × Word16)} {banks : List Bank} {b : Block} {x : Bank}
    {c c' : Option Nat} (h : OwnedBy ((k, q) :: l) banks c) (hx : BankSettled k b c x c') :
    OwnedBy l (banks.set k x) c' := by
  have hk : banks[k]? = some (.filling q) := h.filling (k, q) List.mem_cons_self
  have hidle : c ≠ some k := fun hc => by
    obtain ⟨d, hd⟩ := (h.computes k).mpr hc
    rw [hk] at hd
    cases hd
  have hdistinct := h.distinct
  rw [List.map_cons, List.nodup_cons] at hdistinct
  refine (h.sublist (List.sublist_cons_self _ _)).setBank (List.getElem?_eq_some_iff.mp hk).1
    (fun p hp he => hdistinct.1 (List.mem_map.mpr ⟨p, hp, he⟩)) ?_ fun j hj => ?_
  · cases hx <;> simp [hidle]
  · cases hx with
    | freed | waits => rfl
    | computed => simp [Ne.symm hj]

/-- The FREE bank that an opening takes (R127). -/
theorem OwnedBy.fill {k : Nat} {l : List (Nat × Word16)} {banks : List Bank} {c : Option Nat} (h : OwnedBy l banks c)
    (hk : banks[k]? = some .free) (q : Word16) : OwnedBy ((k, q) :: l) (banks.set k (.filling q)) c := by
  have hlt : k < banks.length := (List.getElem?_eq_some_iff.mp hk).1
  have hfresh := h.unowned hk fun q hq => by cases hq
  have hidle : c ≠ some k := fun hc => by
    obtain ⟨d, hd⟩ := (h.computes k).mpr hc
    rw [hk] at hd
    cases hd
  obtain ⟨htwo, hfilling, hdistinct, hcomputes⟩ :=
    h.setBank (x := .filling q) (c' := c) hlt hfresh (by simp [hidle]) fun _ _ => Iff.rfl
  refine ⟨htwo, fun p hp => ?_, ?_, hcomputes⟩
  · rcases List.mem_cons.mp hp with rfl | hp
    · exact List.getElem?_set_self hlt
    · exact hfilling p hp
  · rw [List.map_cons, List.nodup_cons]
    refine ⟨fun hm => ?_, hdistinct⟩
    obtain ⟨p, hp, he⟩ := List.mem_map.mp hm
    exact hfresh p hp he

/-- A bank that is not FILLING changes state: COMPUTING where the Wear Unit takes it, and FREE where it does not (R137,
R138). -/
theorem OwnedBy.unfilled {k : Nat} {l : List (Nat × Word16)} {banks : List Bank} {c c' : Option Nat} {x y : Bank}
    (h : OwnedBy l banks c) (hk : banks[k]? = some y) (hy : ∀ q, y ≠ .filling q) (hc : c = none ∨ c = some k)
    (hx : x = .free ∧ c' = none ∨ ∃ b, x = .computing b ∧ c' = some k) : OwnedBy l (banks.set k x) c' := by
  refine h.setBank (List.getElem?_eq_some_iff.mp hk).1 (h.unowned hk hy) ?_ fun j hj => ?_
  · rcases hx with ⟨rfl, rfl⟩ | ⟨b, rfl, rfl⟩ <;> simp
  · have hidle : c ≠ some j := by rcases hc with rfl | rfl <;> simp [Ne.symm hj]
    rcases hx with ⟨rfl, rfl⟩ | ⟨b, rfl, rfl⟩ <;> simp [hidle, Ne.symm hj]

/-! ### The tags of the entries -/

/-- No entry of `u` has a tag that it had not in `t`, and the table has the size it had. -/
structure TagsKept (t u : TrackTable) : Prop where
  size : u.entries.length = t.entries.length
  tags : ∀ i e', u.entry i = some e' → ∃ e, t.entry i = some e ∧ e'.tag = e.tag

theorem TagsKept.refl (t : TrackTable) : TagsKept t t := ⟨rfl, fun _ e he => ⟨e, he, rfl⟩⟩

theorem TagsKept.of_eq {t u : TrackTable} (h : u.entries = t.entries) : TagsKept t u := by
  have hentry (i : Nat) : u.entry i = t.entry i := by rw [TrackTable.entry, h, TrackTable.entry]
  exact ⟨congrArg List.length h, fun i e he => ⟨e, (hentry i).symm.trans he, rfl⟩⟩

theorem TagsKept.trans {t u v : TrackTable} (h1 : TagsKept t u) (h2 : TagsKept u v) : TagsKept t v := by
  refine ⟨h2.size.trans h1.size, fun i e'' he'' => ?_⟩
  obtain ⟨e', he', ht'⟩ := h2.tags i e'' he''
  obtain ⟨e, he, ht⟩ := h1.tags i e' he'
  exact ⟨e, he, ht'.trans ht⟩

theorem TagsKept.of_entrywise {R : Entry → Entry → Prop} (hR : ∀ e e', R e e' → e'.tag = e.tag) {t u : TrackTable}
    (h : Entrywise R t.entries u.entries) : TagsKept t u := by
  refine ⟨h.length_eq, fun i e' he' => ?_⟩
  obtain ⟨hnone, hsome⟩ := h.entry i
  cases he : t.entry i with
  | none => rw [hnone he] at he'; cases he'
  | some e =>
    obtain ⟨d, hd, hr⟩ := hsome e he
    rw [hd, Option.some.injEq] at he'
    exact ⟨e, rfl, he' ▸ hR e d hr⟩

/-- A change to each entry that leaves its tag alone. -/
theorem mapEntries_tagsKept (s : State) {g : Entry → Entry} (hg : ∀ e, (g e).tag = e.tag) :
    TagsKept s.tt (s.mapEntries g).tt :=
  .of_entrywise (R := fun e e' => e'.tag = e.tag) (fun _ _ h => h) (Entrywise.map _ hg _)

/-- An entry is replaced by one of its tag, or by none. -/
theorem setEntry_tagsKept {s : State} {i : Nat} {e : Entry} (he : s.tt.entry i = some e) {p : Option Entry}
    (hp : ∀ e', p = some e' → e'.tag = e.tag) : TagsKept s.tt (s.setEntry i p).tt := by
  refine ⟨List.length_set, fun j e' he' => ?_⟩
  by_cases hj : j = i
  · subst hj
    rw [entry_setEntry_self (entry_lt he)] at he'
    exact ⟨e, he, hp e' he'⟩
  · rw [entry_setEntry_ne hj] at he'
    exact ⟨e', he', rfl⟩

/-! ### What every command keeps -/

/-- What the invariants of the Strip Store need of a change: each block is kept, the ownership of banks with it, and
the tags stay distinct. -/
structure StoreKept (s t : State) : Prop where
  blocks : BlocksKept s.ss t.ss
  owned : s.ss.Owned → t.ss.Owned
  tags : s.ss.Owned → s.TagsOwned → t.TagsOwned

theorem StoreKept.refl (s : State) : StoreKept s s := ⟨.refl _, id, fun _ => id⟩

theorem StoreKept.trans {a b c : State} (h1 : StoreKept a b) (h2 : StoreKept b c) : StoreKept a c :=
  ⟨h1.blocks.trans h2.blocks, h2.owned ∘ h1.owned, fun ho ht => h2.tags (h1.owned ho) (h1.tags ho ht)⟩

theorem StoreKept.ite {s t : State} {c : Prop} [Decidable c] (h : StoreKept s t) :
    StoreKept s (if c then t else s) := by
  split
  · exact h
  · exact .refl s

theorem foldl_storeKept {β : Type} (f : State → β → State) (h : ∀ s b, StoreKept s (f s b)) (l : List β) (s : State) :
    StoreKept s (l.foldl f s) :=
  foldl_related StoreKept .refl (fun _ _ _ => .trans) f h l s

/-- The lanes that a block of the store may have bound, where the tags are owned. -/
theorem State.TagsOwned.lanes {s : State} (h : s.TagsOwned) {b : Block} (hb : s.ss.Holds b) : b.lanes.length ≤ 8 := by
  rcases hb with hb | hb | hb
  · exact h.openLanes b hb
  · exact h.settlingLanes b hb
  · exact h.bankLanes b hb

theorem BlocksKept.lanes {u v : StripStore} (h : BlocksKept u v) (hu : ∀ b, u.Holds b → b.lanes.length ≤ 8) (c : Block)
    (hc : v.Holds c) : c.lanes.length ≤ 8 := by
  rcases h c hc with ⟨-, hl⟩ | ⟨b, hb, hbc⟩
  · exact hl
  · exact hbc.lanes (hu b hb)

/-- Distinct tags, a table of 8 positions and blocks of 8 lanes at most make owned tags. -/
theorem State.TagsOwned.of_parts {t : State}
    (hd : ∀ i j a b, t.tt.entry i = some a → t.tt.entry j = some b → a.tag = b.tag → i = j)
    (hn : t.tt.entries.length = 8) (hl : ∀ b, t.ss.Holds b → b.lanes.length ≤ 8) : t.TagsOwned :=
  ⟨hd, hn, fun b hb => hl b (.inl hb), fun b hb => hl b (.inr (.inl hb)), fun b hb => hl b (.inr (.inr hb))⟩

/-- A change that brings no new tag. -/
theorem StoreKept.of_tagsKept {s t : State} (hb : BlocksKept s.ss t.ss) (ho : s.ss.Owned → t.ss.Owned)
    (ht : TagsKept s.tt t.tt) : StoreKept s t := by
  refine ⟨hb, ho, fun _ h =>
    .of_parts (fun i j a b ha hb' hab => ?_) (ht.size.trans h.entries) (hb.lanes fun _ => h.lanes)⟩
  obtain ⟨a', ha', hta⟩ := ht.tags i a ha
  obtain ⟨b', hb'', htb⟩ := ht.tags j b hb'
  exact h.distinct i j a' b' ha' hb'' (hta.symm.trans (hab.trans htb))

/-- A change of the entries alone that brings no new tag. -/
theorem StoreKept.of_entries {s t : State} (hss : t.ss = s.ss) (ht : TagsKept s.tt t.tt) : StoreKept s t :=
  .of_tagsKept (by rw [hss]; exact .refl _) (by rw [hss]; exact id) ht

/-- A change to other parts of the state. -/
theorem StoreKept.of_eq {s t : State} (hss : t.ss = s.ss) (htt : t.tt.entries = s.tt.entries) : StoreKept s t :=
  .of_entries hss (.of_eq htt)

end Sys2Proof.Machine
end

section
/-! SUPPORT. What blocks, banks and new entries do to the Strip Store and the tags. -/

namespace Sys2Proof.Machine

/-! ### Blocks changed in place -/

/-- The Strip Store with other records for the open block and the blocks held settling. -/
def StripStore.withBlocks (ss : StripStore) (o : Option Block) (l : List Block) : StripStore :=
  { ss with openBlock := o, settling := l }

theorem kept_of_forall₂ {l m : List Block} (h : List.Forall₂ Block.Kept l m) : ∀ c ∈ m, ∃ b ∈ l, b.Kept c := by
  induction h with
  | nil => simp
  | cons hbc _ ih =>
    rintro c (_ | ⟨_, hc⟩)
    · exact ⟨_, List.mem_cons_self, hbc⟩
    · obtain ⟨b, hb, hk⟩ := ih c hc
      exact ⟨b, List.mem_cons_of_mem _ hb, hk⟩

theorem owners_of_forall₂ {l m : List Block} (h : List.Forall₂ Block.Kept l m) :
    m.filterMap Block.owner = l.filterMap Block.owner := by
  induction h with
  | nil => rfl
  | cons hbc _ ih => rw [List.filterMap_cons, List.filterMap_cons, hbc.owner, ih]

theorem forall₂_toList {o p : Option Block} (h : Option.Rel Block.Kept o p) :
    List.Forall₂ Block.Kept o.toList p.toList := by
  cases h with
  | some h => exact .cons h .nil
  | none => exact .nil

/-- Blocks that are kept, each in its place, own the banks that they owned. -/
theorem withBlocks_storeKept (s : State) {o : Option Block} {l : List Block}
    (ho : Option.Rel Block.Kept s.ss.openBlock o) (hl : List.Forall₂ Block.Kept s.ss.settling l) :
    StoreKept s (s.setSs (s.ss.withBlocks o l)) := by
  have howners : (s.ss.withBlocks o l).owners = s.ss.owners := by
    unfold StripStore.owners
    rw [← owners_of_forall₂ hl, ← owners_of_forall₂ (forall₂_toList ho)]
    rfl
  refine .of_tagsKept ?_ ?_ (.refl _)
  · rintro c (hc | hc | hc)
    · obtain ⟨b, hb, hk⟩ := kept_of_forall₂ (forall₂_toList ho) c (by simpa [StripStore.withBlocks] using hc)
      exact .inr ⟨b, .inl (by simpa using hb), hk⟩
    · obtain ⟨b, hb, hk⟩ := kept_of_forall₂ hl c hc
      exact .inr ⟨b, .inr (.inl hb), hk⟩
    · exact .inr ⟨c, .inr (.inr hc), .refl c⟩
  · rintro ⟨howned, hbanked⟩
    refine ⟨howners.symm ▸ howned, fun c hc hn => ?_⟩
    obtain ⟨b, hb, hk⟩ := kept_of_forall₂ hl c hc
    exact hbanked b hb (hk.bank.symm.trans hn)

theorem kept_map {f : Block → Block} (hf : ∀ b : Block, b.Kept (f b)) (o : Option Block) :
    Option.Rel Block.Kept o (o.map f) := by
  cases o with
  | none => exact .none
  | some b => exact .some (hf b)

theorem kept_refl (l : List Block) : List.Forall₂ Block.Kept l l := List.forall₂_same.mpr fun b _ => Block.Kept.refl b

/-- A change to the open block. -/
theorem mapOpen_storeKept (s : State) {f : Block → Block} (hf : ∀ b : Block, b.Kept (f b)) :
    StoreKept s (s.setSs { s.ss with openBlock := s.ss.openBlock.map f }) :=
  withBlocks_storeKept s (kept_map hf _) (kept_refl _)

/-- A change to the lanes of the blocks not yet settled. -/
theorem mapLanes_storeKept (s : State) {g : Block → Lane → Lane} (hg : ∀ b : Block, b.Kept (b.mapLanes (g b))) :
    StoreKept s (s.setSs (s.ss.mapLanes g)) :=
  withBlocks_storeKept s (kept_map hg _)
    (List.forall₂_map_right_iff.mpr (List.forall₂_same.mpr fun b _ => hg b))

theorem stopLanes_storeKept (tag : Byte) (c : StopCause) (s : State) : StoreKept s (stopLanes tag c s) :=
  mapLanes_storeKept s fun b =>
    b.mapLanes_kept_of_eq (fun l => by split <;> rfl) (fun l => by split <;> rfl)

theorem handOnHit_storeKept (cfg : Startup) (row : RowInProcess) (tag : Byte) (c : Candidate) (shared : Bool)
    (s : State) : StoreKept s (handOnHit cfg row tag c shared s) := by
  refine mapLanes_storeKept s fun b => Block.mapLanes_kept fun l hl => ?_
  split
  · exact writeHit_stripsBounded cfg s.su row c shared hl
  · exact hl

/-- Entries that agree but for a lane and the reclaim mark have one tag. -/
theorem SameWire.tag {e e' : Entry} (h : SameWire e e') : e'.tag = e.tag := by rw [h]

theorem offerLane_storeKept (i : Nat) (f : Word32) (s : State) : StoreKept s (offerLane i f s) := by
  have htags : TagsKept s.tt (offerLane i f s).tt :=
    .of_entrywise (fun _ _ => SameWire.tag) (offerLane_frame i f s).2.2
  unfold offerLane at htags ⊢
  split
  · rename_i b e hb he
    split
    · rename_i hl
      have hkept := withBlocks_storeKept s (o := some { b with lanes := b.lanes ++ [newLane e b.lanes.length f] })
        (by rw [hb]; exact .some (b.bindLane_kept hl e _ f)) (kept_refl _)
      simp only [hb, he, if_pos hl] at htags
      exact .of_tagsKept hkept.blocks hkept.owned htags
    · exact .refl s
  · exact .refl s

theorem skipNewLanes_storeKept (n : Nat) (s : State) : StoreKept s (skipNewLanes n s) := by
  refine mapOpen_storeKept s fun b => ⟨rfl, rfl, fun hb l hl => ?_, fun hb => ?_⟩
  · rcases List.mem_append.mp hl with hl | hl
    · exact hb l (List.mem_of_mem_take hl)
    · obtain ⟨l', hl', rfl⟩ := List.mem_map.mp hl
      exact Lane.StripsBounded.congr (hb l' (List.mem_of_mem_drop hl')) rfl rfl
  · simp only [List.length_append, List.length_map, List.length_take, List.length_drop]
    omega

theorem answerAmbient_storeKept (s : State) : StoreKept s (answerAmbient s) :=
  (mapOpen_storeKept s (f := fun b => { b with ambient := true }) fun _ => ⟨rfl, rfl, id, id⟩).trans (.of_eq rfl rfl)

/-! ### Settling -/

/-- What settling leaves in the Strip Store: all of it for a starved block, and else a changed bank (R132, R137,
R140). -/
theorem settleBlock_store (cfg : Startup) (s : State) (b : Block) :
    (b.bank = none ∧ (settleBlock cfg s b).ss = s.ss)
      ∨ ∃ k x c, b.bank = some k ∧ BankSettled k (b.mapLanes Lane.finish) s.ss.computing x c
          ∧ (settleBlock cfg s b).ss = { s.ss with banks := s.ss.banks.set k x, computing := c } := by
  unfold settleBlock
  dsimp only
  split
  · rename_i hk
    exact .inl ⟨hk, by simp⟩
  · rename_i k hk
    refine .inr ?_
    split
    · exact ⟨k, .free, s.ss.computing, hk, .freed _, rfl⟩
    · split
      · rename_i hc
        rw [hc]
        rcases startCompute_cases k (b.mapLanes Lane.finish) s with ⟨-, h⟩ | ⟨-, h⟩
        · exact ⟨k, _, _, hk, .computed, by rw [h]⟩
        · exact ⟨k, _, _, hk, .freed none, by rw [h]⟩
      · exact ⟨k, _, s.ss.computing, hk, .waits _, rfl⟩

/-- A bank that settling changes holds the block that settles, or none. -/
theorem BankSettled.held {k : Nat} {b d : Block} {c c' : Option Nat} {x : Bank} (h : BankSettled k b c x c')
    (hd : x = .waiting d ∨ x = .computing d) : d = b := by
  cases h with
  | freed => simp at hd
  | waits | computed => simpa [eq_comm] using hd

/-- A block that settles gives its bank up and leaves the other owners theirs. -/
theorem settleBlock_owned (cfg : Startup) {s : State} {b : Block} {l : List (Nat × Word16)}
    (h : OwnedBy (b.owner.toList ++ l) s.ss.banks s.ss.computing) :
    OwnedBy l (settleBlock cfg s b).ss.banks (settleBlock cfg s b).ss.computing := by
  unfold Block.owner at h
  rcases settleBlock_store cfg s b with ⟨hk, e⟩ | ⟨k, x, c, hk, hx, e⟩
  · rw [e]
    rw [hk] at h
    exact h
  · rw [e]
    rw [hk] at h
    exact OwnedBy.settle h hx

theorem settleBlock_bankHolds (cfg : Startup) {s : State} {b c : Block} (h : (settleBlock cfg s b).ss.BankHolds c) :
    s.ss.BankHolds c ∨ b.Kept c := by
  rcases settleBlock_store cfg s b with ⟨-, e⟩ | ⟨k, x, _, -, hx, e⟩
  · rw [e] at h
    exact .inl h
  · rw [e] at h
    have hsettled (hc : x = .waiting c ∨ x = .computing c) : b.Kept c := hx.held hc ▸ b.finish_kept
    rcases h with h | h
    · exact (List.mem_or_eq_of_mem_set h).imp .inl fun he => hsettled (.inl he.symm)
    · exact (List.mem_or_eq_of_mem_set h).imp .inr fun he => hsettled (.inr he.symm)

theorem settleAll_owned (cfg : Startup) (l : List (Nat × Word16)) : ∀ (bs : List Block) (s : State),
    OwnedBy (bs.filterMap Block.owner ++ l) s.ss.banks s.ss.computing →
      OwnedBy l (bs.foldl (settleBlock cfg) s).ss.banks (bs.foldl (settleBlock cfg) s).ss.computing
  | [], _, h => h
  | b :: bs, s, h => by
    refine settleAll_owned cfg l bs _ (settleBlock_owned cfg ?_)
    rw [List.filterMap_cons] at h
    cases hb : b.owner <;> rw [hb] at h <;> exact h

theorem settleAll_bankHolds (cfg : Startup) {c : Block} : ∀ (bs : List Block) (s : State),
    (bs.foldl (settleBlock cfg) s).ss.BankHolds c → s.ss.BankHolds c ∨ ∃ b ∈ bs, b.Kept c
  | [], _, h => .inl h
  | b :: bs, s, h => by
    rcases settleAll_bankHolds cfg bs _ h with h | ⟨d, hd, hk⟩
    · exact (settleBlock_bankHolds cfg h).imp_right fun hk => ⟨b, List.mem_cons_self, hk⟩
    · exact .inr ⟨d, List.mem_cons_of_mem _ hd, hk⟩

theorem SameButOrigin.tag {e e' : Entry} (h : SameButOrigin e e') : e'.tag = e.tag := by rw [h.1]

/-- Those that settle and those that do not are the blocks held settling. -/
theorem settling_split (ss : StripStore) (p : Block → Bool) :
    ss.owners.Perm ((ss.settling.filter fun b => !p b).filterMap Block.owner
      ++ (ss.withBlocks ss.openBlock (ss.settling.filter p)).owners) := by
  have hsplit : ss.settling.Perm ((ss.settling.filter fun b => !p b) ++ ss.settling.filter p) :=
    ((List.filter_append_perm p _).symm).trans List.perm_append_comm
  have howner := hsplit.filterMap Block.owner
  rw [List.filterMap_append] at howner
  exact (howner.append_left _).trans (List.perm_append_comm_assoc _ _ _)

/-- What owes no more frames settles, bank by bank (R132). -/
theorem settleReady_storeKept (cfg : Startup) (s : State) : StoreKept s (settleReady cfg s) := by
  obtain ⟨hframe, hentries⟩ := settleReady_frame cfg s
  have hopen : (settleReady cfg s).ss.openBlock = s.ss.openBlock := by rw [hframe]
  have hsettling : (settleReady cfg s).ss.settling = s.ss.settling.filter fun b => owesFrames s b := by rw [hframe]
  have howners : (settleReady cfg s).ss.owners =
      (s.ss.withBlocks s.ss.openBlock (s.ss.settling.filter fun b => owesFrames s b)).owners := by
    rw [StripStore.owners, hopen, hsettling]
    rfl
  refine .of_tagsKept ?_ ?_ (.of_entrywise (fun _ _ => SameButOrigin.tag) hentries)
  · rintro c (hc | hc | hc)
    · exact .inr ⟨c, .inl (hopen.symm.trans hc), .refl c⟩
    · rw [hsettling] at hc
      exact .inr ⟨c, .inr (.inl (List.mem_of_mem_filter hc)), .refl c⟩
    · rcases settleAll_bankHolds cfg _ _ hc with hc | ⟨b, hb, hk⟩
      · exact .inr ⟨c, .inr (.inr hc), .refl c⟩
      · exact .inr ⟨b, .inr (.inl (List.mem_of_mem_filter hb)), hk⟩
  · rintro ⟨howned, hbanked⟩
    refine ⟨?_, fun b hb => ?_⟩
    · rw [howners]
      exact settleAll_owned cfg _ _ (s.setSs { s.ss with settling := s.ss.settling.filter fun b => owesFrames s b })
        (howned.perm (settling_split s.ss fun b => owesFrames s b))
    · rw [hsettling] at hb
      exact hbanked b (List.mem_of_mem_filter hb)

/-! ### Closing -/

/-- The open block, once closed, settles at once (R130, R132). -/
theorem closed_settles (cfg : Startup) {s u : State} {b c : Block} (hb : s.ss.openBlock = some b)
    (hu : u.ss = s.ss.withBlocks none s.ss.settling) (htt : TagsKept s.tt u.tt) (hk : b.Kept c) :
    StoreKept s (settleBlock cfg u c) := by
  obtain ⟨hframe, hentries⟩ := settleBlock_frame cfg u c
  have hopen : (settleBlock cfg u c).ss.openBlock = none := by rw [hframe, hu]; rfl
  have hsettling : (settleBlock cfg u c).ss.settling = s.ss.settling := by rw [hframe, hu]; rfl
  have howners : s.ss.owners = c.owner.toList ++ s.ss.settling.filterMap Block.owner := by
    rw [StripStore.owners, hb, hk.owner]
    cases h : b.owner <;> simp [h]
  refine .of_tagsKept ?_ ?_ (htt.trans (.of_entrywise (fun _ _ => SameButOrigin.tag) hentries))
  · rintro d (hd | hd | hd)
    · rw [hopen] at hd
      cases hd
    · rw [hsettling] at hd
      exact .inr ⟨d, .inr (.inl hd), .refl d⟩
    · rcases settleBlock_bankHolds cfg hd with hd | hd
      · rw [hu] at hd
        exact .inr ⟨d, .inr (.inr hd), .refl d⟩
      · exact .inr ⟨b, .inl hb, hk.trans hd⟩
  · rintro ⟨howned, hbanked⟩
    refine ⟨?_, by rw [hsettling]; exact hbanked⟩
    rw [StripStore.owners, hopen, hsettling]
    refine settleBlock_owned cfg ?_
    rw [hu]
    exact howners ▸ howned

/-- The open block, once closed, is held settling with the bank it owns (R132). -/
theorem closed_waits {s u : State} {b c : Block} (hb : s.ss.openBlock = some b)
    (hu : u.ss = s.ss.withBlocks none (s.ss.settling ++ [c])) (htt : TagsKept s.tt u.tt) (hk : b.Kept c)
    (hbank : c.bank ≠ none) : StoreKept s u := by
  have hperm : s.ss.owners.Perm u.ss.owners := by
    rw [hu, StripStore.owners, StripStore.owners, hb]
    simp only [StripStore.withBlocks, Option.toList_some, Option.toList_none, List.filterMap_nil, List.nil_append,
      List.filterMap_append]
    have howner : [c].filterMap Block.owner = [b].filterMap Block.owner := by
      rw [List.filterMap_cons, List.filterMap_cons, hk.owner]
    rw [howner]
    exact List.perm_append_comm
  refine .of_tagsKept ?_ ?_ htt
  · intro d hd
    rw [hu] at hd
    rcases hd with hd | hd | hd
    · cases hd
    · rcases List.mem_append.mp hd with hd | hd
      · exact .inr ⟨d, .inr (.inl hd), .refl d⟩
      · rw [List.mem_singleton.mp hd]
        exact .inr ⟨b, .inl hb, hk⟩
    · exact .inr ⟨d, .inr (.inr hd), .refl d⟩
  · rintro ⟨howned, hbanked⟩
    have hbanks : u.ss.banks = s.ss.banks := by rw [hu]; rfl
    have hcomputing : u.ss.computing = s.ss.computing := by rw [hu]; rfl
    refine ⟨by rw [hbanks, hcomputing]; exact howned.perm hperm, fun d hd => ?_⟩
    rw [hu] at hd
    rcases List.mem_append.mp hd with hd | hd
    · exact hbanked d hd
    · rw [List.mem_singleton.mp hd]
      exact hbank

theorem closeBlock_storeKept (cfg : Startup) (f : Word32) (s : State) : StoreKept s (closeBlock cfg f s) := by
  unfold closeBlock
  split
  · exact .refl s
  · rename_i b hb
    dsimp only
    have hclosed := b.close_kept f s.du.distance
    have htt : TagsKept s.tt (s.mapEntries fun e => { e with lane := none }).tt := mapEntries_tagsKept s fun _ => rfl
    split
    · exact closed_settles cfg hb rfl htt (hclosed.trans (countOwed_kept _ _))
    · rename_i hbank
      split
      · exact closed_settles cfg hb rfl htt hclosed
      · exact closed_waits hb rfl htt hclosed hbank

theorem naturalEnd_storeKept (cfg : Startup) (f : Word32) (s : State) : StoreKept s (naturalEnd cfg f s) := by
  unfold naturalEnd
  split
  · exact (closeBlock_storeKept cfg f s).ite
  · exact .refl s

theorem treatAbsent_storeKept (cfg : Startup) (s : State) (f : Word32) : StoreKept s (treatAbsent cfg s f) := by
  have hcount : StoreKept s (if isDark f then s else s.setSs (s.ss.mapLanes fun b l =>
      if l.isTaking && l.covers b s.du.frameIndex f then { l with absent := l.absent + 1 } else l)) := by
    split
    · exact .refl s
    · exact mapLanes_storeKept s fun b =>
        b.mapLanes_kept_of_eq (fun l => by split <;> rfl) (fun l => by split <;> rfl)
  exact (hcount.trans (naturalEnd_storeKept cfg f _)).trans (settleReady_storeKept cfg _)

theorem frameSkipped_storeKept (cfg : Startup) (f : Word32) (s : State) : StoreKept s (frameSkipped cfg f s) := by
  have hcount : StoreKept s
      (if isDark f then s else s.setSs { s.ss with openBlock := s.ss.openBlock.map skipInLanes }) := by
    split
    · exact .refl s
    · exact mapOpen_storeKept s skipInLanes_kept
  exact hcount.trans (naturalEnd_storeKept cfg f _)

/-! ### Opening -/

/-- The FREE bank with the lower number (R127). -/
theorem freeBank_some {ss : StripStore} {k : Nat} (h : ss.freeBank = some k) :
    ss.banks[k]? = some .free ∧ ∀ j < k, ss.banks[j]? ≠ some .free := by
  obtain ⟨hk, hfree, hbefore⟩ := List.findIdx?_eq_some_iff_getElem.mp h
  refine ⟨by rw [List.getElem?_eq_getElem hk, beq_iff_eq.mp hfree], fun j hj hj' => ?_⟩
  obtain ⟨hlt, hget⟩ := List.getElem?_eq_some_iff.mp hj'
  exact hbefore j hj (by rw [hget]; rfl)

theorem freeBank_none {ss : StripStore} (h : ss.freeBank = none) (k : Nat) : ss.banks[k]? ≠ some .free := by
  intro hk
  have := List.findIdx?_eq_none_iff.mp h _ (List.mem_of_getElem? hk)
  cases this

/-- The lanes that an opening binds are fresh, and 8 at most (R128). -/
theorem openedBlock_fresh (cfg : Startup) (s : State) :
    let b := openedBlock cfg s (lanesFor s.du.frameIndex ((List.range 8).filterMap (ownerAt s)))
    b.StripsBounded ∧ b.lanes.length ≤ 8 := by
  refine ⟨fun l hl => ?_, ?_⟩
  · obtain ⟨p, -, rfl⟩ := List.mem_map.mp hl
    exact newLane_stripsBounded _ _ _ _
  · simpa [openedBlock, lanesFor] using List.length_filterMap_le (ownerAt s) (List.range 8)

theorem opened_owners (ss : StripStore) (b : Block) :
    (ss.opened b).owners = b.owner.toList ++ ss.settling.filterMap Block.owner := by
  rw [StripStore.owners, StripStore.opened]
  cases h : b.owner <;> simp [h]

theorem openedBlock_owner (cfg : Startup) (s : State) (lanes : List Lane) :
    (openedBlock cfg s lanes).owner = s.ss.freeBank.map fun k => (k, s.ss.blockSeq + 1) := rfl

/-- With no block open an opening takes a FREE bank, or none (R127). -/
theorem openBlock_storeKept (cfg : Startup) {s : State} (hn : s.ss.openBlock = none) :
    StoreKept s (openBlock cfg s) := by
  obtain ⟨hss, -⟩ := openBlock_opens cfg s
  have hfresh := openedBlock_fresh cfg s
  refine .of_tagsKept ?_ ?_ (.of_entrywise (fun _ _ => SameWire.tag) (openBlock_trigger cfg s).2) <;> rw [hss]
  · rintro c (hc | hc | hc)
    · cases hc
      exact .inl hfresh
    · exact .inr ⟨c, .inr (.inl hc), .refl c⟩
    · refine .inr ⟨c, .inr (.inr ?_), .refl c⟩
      unfold StripStore.opened at hc
      cases hk : s.ss.freeBank with
      | none => rw [hk] at hc; exact hc
      | some k =>
        rw [hk] at hc
        refine hc.imp (fun h => ?_) fun h => ?_
        · exact (List.mem_or_eq_of_mem_set h).resolve_right (by simp)
        · exact (List.mem_or_eq_of_mem_set h).resolve_right (by simp)
  · rintro ⟨howned, hbanked⟩
    rw [StripStore.owners, hn] at howned
    refine ⟨?_, hbanked⟩
    rw [opened_owners, openedBlock_owner]
    unfold StripStore.opened
    cases hk : s.ss.freeBank with
    | none => exact howned
    | some k => exact howned.fill (freeBank_some hk).1 (s.ss.blockSeq + 1)

/-! ### Computing -/

theorem mem_of_waitingBank {ss : StripStore} {j : Nat} {w : Block} (h : ss.waitingBank = some (j, w)) :
    ss.BankHolds w := .inl (List.mem_of_getElem? (waitingBank_some h))

/-- A bank that is not FILLING becomes FREE, or is computed for a block that it held. -/
theorem bank_storeKept {s t : State} {k : Nat} {x y : Bank} {c : Option Nat}
    (hss : t.ss = { s.ss with banks := s.ss.banks.set k x, computing := c }) (htt : TagsKept s.tt t.tt)
    (hk : s.ss.banks[k]? = some y) (hy : ∀ q, y ≠ .filling q)
    (hc : s.ss.Owned → s.ss.computing = none ∨ s.ss.computing = some k)
    (hx : x = .free ∧ c = none ∨ ∃ b, x = .computing b ∧ c = some k ∧ s.ss.Holds b) : StoreKept s t := by
  refine .of_tagsKept ?_ ?_ htt <;> rw [hss]
  · have hold {d : Block} (hd : x = .waiting d ∨ x = .computing d) : s.ss.Holds d := by
      rcases hx with ⟨rfl, -⟩ | ⟨b, rfl, -, hb⟩
      · simp at hd
      · simp only [reduceCtorEq, Bank.computing.injEq, false_or] at hd
        exact hd ▸ hb
    rintro d (hd | hd | hd | hd)
    · exact .inr ⟨d, .inl hd, .refl d⟩
    · exact .inr ⟨d, .inr (.inl hd), .refl d⟩
    · rcases List.mem_or_eq_of_mem_set hd with hd | hd
      · exact .inr ⟨d, .inr (.inr (.inl hd)), .refl d⟩
      · exact .inr ⟨d, hold (.inl hd.symm), .refl d⟩
    · rcases List.mem_or_eq_of_mem_set hd with hd | hd
      · exact .inr ⟨d, .inr (.inr (.inr hd)), .refl d⟩
      · exact .inr ⟨d, hold (.inr hd.symm), .refl d⟩
  · intro h
    exact ⟨h.owned.unfilled hk hy (hc h) (hx.imp_right fun ⟨b, hb, hbk, _⟩ => ⟨b, hb, hbk⟩), h.banked⟩

theorem computingBank_some {ss : StripStore} {k : Nat} {b : Block} (h : ss.computingBank = some (k, b)) :
    ss.computing = some k ∧ ss.banks[k]? = some (.computing b) := by
  unfold StripStore.computingBank at h
  split at h
  · cases h
  · rename_i j hj
    split at h
    · rename_i d hd
      cases h
      exact ⟨hj, hd⟩
    · cases h

/-- The state once the lanes of the computed bank `k` have been reported and the bank is FREE, whatever the block's
class (R138). -/
def bankFreed (cfg : Startup) (k : Nat) (b : Block) (s : State) : State :=
  (reportBlock cfg b (resultOf cfg b) s).setSs (s.ss.bankComputed k)

/-- After a completion a waiting bank starts computing, if there is one (R138). -/
theorem completeBank_cases (cfg : Startup) (k : Nat) (b : Block) (s : State) :
    completeBank cfg k b s = bankFreed cfg k b s
      ∨ ∃ j w, (s.ss.bankComputed k).waitingBank = some (j, w)
          ∧ completeBank cfg k b s = startCompute j w (bankFreed cfg k b s) := by
  have hss : (reportBlock cfg b (resultOf cfg b) s).ss = s.ss := reportBlock_ss ..
  unfold completeBank
  dsimp only
  rw [hss]
  split
  · rename_i j w hw
    exact .inr ⟨j, w, hw, rfl⟩
  · exact .inl rfl

/-- The completion of the bank that the Wear Unit computes (R137, R138). -/
theorem completeBank_storeKept (cfg : Startup) {k : Nat} {b : Block} {s : State}
    (hk : s.ss.computingBank = some (k, b)) : StoreKept s (completeBank cfg k b s) := by
  obtain ⟨hcomputing, hbank⟩ := computingBank_some hk
  have hfree : StoreKept s (bankFreed cfg k b s) :=
    bank_storeKept (k := k) (x := .free) (c := none) rfl
      (.of_entrywise (fun _ _ => SameButOrigin.tag) (reportBlock_frame cfg b (resultOf cfg b) s).2) hbank
      (fun _ h => by cases h) (fun _ => .inr hcomputing) (.inl ⟨rfl, rfl⟩)
  rcases completeBank_cases cfg k b s with e | ⟨j, w, hw, e⟩ <;> rw [e]
  · exact hfree
  · refine hfree.trans ?_
    rcases startCompute_cases j w (bankFreed cfg k b s) with ⟨-, h⟩ | ⟨-, h⟩ <;>
      refine bank_storeKept (by rw [h]) (.of_eq (by rw [h])) (waitingBank_some hw) (fun _ h => by cases h)
        (fun _ => .inl rfl) ?_
    · exact .inr ⟨w, rfl, rfl, .inr (.inr (mem_of_waitingBank hw))⟩
    · exact .inl ⟨rfl, rfl⟩

/-! ### New entries -/

/-- The tags of the entries and of the lanes that hold theirs (R91). -/
def State.usedTags (s : State) : List Byte :=
  s.tt.entries.filterMap (fun p => p.map (·.tag)) ++ s.ss.heldLanes.map (·.tag)

theorem mem_usedTags {s : State} {t : Byte} (h : s.UsesTag t) : t ∈ s.usedTags := by
  rw [← tagInUse_iff, tagInUse, Bool.or_eq_true, List.any_eq_true, List.any_eq_true] at h
  rw [State.usedTags, List.mem_append, List.mem_filterMap, List.mem_map]
  rcases h with ⟨_ | e, hp, ht⟩ | ⟨l, hl, ht⟩
  · cases ht
  · exact .inl ⟨some e, hp, congrArg some (beq_iff_eq.mp ht)⟩
  · exact .inr ⟨l, hl, beq_iff_eq.mp ht⟩

theorem length_flatMap_le {α β : Type} {f : α → List β} {n : Nat} {l : List α} (h : ∀ a ∈ l, (f a).length ≤ n) :
    (l.flatMap f).length ≤ l.length * n := by
  rw [List.length_flatMap]
  have := List.sum_le_card_nsmul (l.map fun a => (f a).length) n (by simpa using h)
  simpa using this

/-- Two banks and two blocks settling hold 40 lanes at most (R126, R129). -/
theorem heldLanes_length {s : State} (ho : s.ss.Owned) (ht : s.TagsOwned) : s.ss.heldLanes.length ≤ 40 := by
  have hopen : ((s.ss.openBlock.map (·.lanes)).getD []).length ≤ 8 := by
    cases hb : s.ss.openBlock with
    | none => exact Nat.zero_le _
    | some b => exact ht.lanes (.inl hb)
  have hsettling : (s.ss.settling.flatMap (·.lanes)).length ≤ s.ss.settling.length * 8 :=
    length_flatMap_le fun b hb => ht.lanes (.inr (.inl hb))
  have hbanks : (s.ss.banks.flatMap Bank.lanes).length ≤ s.ss.banks.length * 8 := length_flatMap_le fun k hk => by
    cases k with
    | free | filling _ => exact Nat.zero_le _
    | waiting b => exact ht.lanes (.inr (.inr (.inl hk)))
    | computing b => exact ht.lanes (.inr (.inr (.inr hk)))
  have htwo := ho.settling_length
  have hbanksTwo := ho.owned.two
  rw [StripStore.heldLanes, List.length_append, List.length_append]
  omega

/-- Of 256 tags one is free, for no more than 48 are in use (R91). -/
theorem exists_free_tag {s : State} (ho : s.ss.Owned) (ht : s.TagsOwned) : ∃ t, ¬s.UsesTag t := by
  by_contra hall
  simp only [not_exists, not_not] at hall
  have hnodup : ((List.range 256).map (BitVec.ofNat 8)).Nodup := by
    refine List.Nodup.map_on (fun a ha b hb hab => ?_) List.nodup_range
    rw [List.mem_range] at ha hb
    have := congrArg BitVec.toNat hab
    rwa [BitVec.toNat_ofNat, BitVec.toNat_ofNat, Nat.mod_eq_of_lt ha, Nat.mod_eq_of_lt hb] at this
  have hsub := (hnodup.subperm (l₂ := s.usedTags) fun t _ => mem_usedTags (hall t)).length_le
  rw [List.length_map, List.length_range, State.usedTags, List.length_append, List.length_map] at hsub
  have hentries := List.length_filterMap_le (fun p : Option Entry => p.map (·.tag)) s.tt.entries
  rw [show s.tt.entries.length = 8 from ht.entries] at hentries
  have := heldLanes_length ho ht
  omega

/-- A new entry takes a tag that no other entry carries (R91). -/
theorem placeEntry_storeKept (i : Nat) {make : Byte → Word32 → Entry} (hmake : ∀ t q, (make t q).tag = t) (s : State) :
    StoreKept s (placeEntry i make s) := by
  refine ⟨.refl _, id, fun ho ht => .of_parts ?_ (List.length_set.trans ht.entries) fun _ => ht.lanes⟩
  have hfree := (nextFreeTag_firstFree (exists_free_tag ho ht)).1
  have hentry {j : Nat} {a : Entry} (ha : (placeEntry i make s).tt.entry j = some a) :
      (j = i ∧ a.tag = nextFreeTag s) ∨ (j ≠ i ∧ s.tt.entry j = some a) := by
    by_cases hj : j = i
    · subst hj
      have hlt : j < s.tt.entries.length := by
        have := entry_lt ha
        rwa [placeEntry, State.setTt_tt, List.length_set] at this
      have hself := entry_setEntry_self (s := s) (e := some (make (nextFreeTag s) (s.tt.creationSeq + 1))) hlt
      have : a = make (nextFreeTag s) (s.tt.creationSeq + 1) := Option.some.inj (ha.symm.trans hself)
      exact .inl ⟨rfl, this ▸ hmake _ _⟩
    · exact .inr ⟨hj, (entry_setEntry_ne (s := s) hj).symm.trans ha⟩
  intro j k a b ha hb hab
  rcases hentry ha with ⟨hj, hta⟩ | ⟨-, ha⟩ <;> rcases hentry hb with ⟨hk, htb⟩ | ⟨-, hb⟩
  · rw [hj, hk]
  · exact absurd (.inl ⟨k, b, hb, hab ▸ hta⟩) hfree
  · exact absurd (.inl ⟨j, a, ha, hab.trans htb⟩) hfree
  · exact ht.distinct j k a b ha hb hab

end Sys2Proof.Machine
end

section
/-! SUPPORT. Strip rows, banks and tags over the operations: what each command does to them. -/

namespace Sys2Proof.Machine

/-- A change after one to other parts of the state. -/
theorem StoreKept.after {s u t : State} (h : StoreKept u t) (hss : u.ss = s.ss) (htt : u.tt.entries = s.tt.entries) :
    StoreKept s t := (StoreKept.of_eq hss htt).trans h

/-! ### Triggers and due events -/

theorem triggerAgeing_storeKept (cfg : Startup) (s : State) : StoreKept s (triggerAgeing cfg s) :=
  .of_entries rfl ((mapEntries_tagsKept s (g := Entry.atTrigger) fun _ => rfl).trans (.of_eq rfl))

theorem triggerBlocks_storeKept (cfg : Startup) (s : State) : StoreKept s (triggerBlocks cfg s) := by
  have hend : StoreKept s (afterGroupEnd cfg s) := (closeBlock_storeKept cfg _ s).ite
  rw [triggerBlocks_eq]
  dsimp only
  split
  · split
    · rename_i hn
      exact hend.trans (openBlock_storeKept cfg hn)
    · exact hend
  · exact hend.trans (StoreKept.ite (.of_eq rfl rfl))

theorem triggerExposure_storeKept (cfg : Startup) (s : State) : StoreKept s (triggerExposure cfg s) := by
  unfold triggerExposure
  split
  · exact .of_eq rfl rfl
  · exact (frameSkipped_storeKept cfg _ s).trans (.of_eq rfl rfl)

theorem triggerHeadstate_storeKept (s : State) : StoreKept s (triggerHeadstate s) := .of_eq (by simp) (by simp)

theorem takeTrigger_storeKept (cfg : Startup) (s : State) : StoreKept s (takeTrigger cfg s) :=
  StoreKept.ite ((triggerAgeing_storeKept cfg s).trans ((triggerBlocks_storeKept cfg _).trans
    ((triggerExposure_storeKept cfg _).trans (triggerHeadstate_storeKept _))))

/-- An entry is replaced by one of its tag. -/
theorem setEntry_storeKept {s : State} {i : Nat} {e e' : Entry} (he : s.tt.entry i = some e) (ht : e'.tag = e.tag) :
    StoreKept s (s.setEntry i (some e')) :=
  .of_entries rfl (setEntry_tagsKept he fun _ h => Option.some.inj h ▸ ht)

/-- An entry is replaced by one of its tag, which is offered a lane. -/
theorem setEntry_offerLane_storeKept {s : State} {i : Nat} {e e' : Entry} (he : s.tt.entry i = some e)
    (ht : e'.tag = e.tag) (f : Word32) : StoreKept s (offerLane i f (s.setEntry i (some e'))) :=
  (setEntry_storeKept he ht).trans (offerLane_storeKept i f _)

theorem reclaim_storeKept (cfg : Startup) {i : Nat} {e : Entry} {s : State} (he : s.tt.entry i = some e) :
    StoreKept s (reclaim cfg i e s) := by
  have hset : StoreKept s (s.setEntry i (some e.reclaimed)) := setEntry_storeKept he rfl
  have hheld : StoreKept s (match e.yieldTarget with
      | some t => (s.setEntry i (some e.reclaimed)).setNeighbour t
          { (s.setEntry i (some e.reclaimed)).neighbour t with notTaking := 256, heldBack := true }
      | none => s.setEntry i (some e.reclaimed)) := by
    split
    · exact hset.trans (.of_eq (by simp) (by simp))
    · exact hset
  unfold reclaim
  dsimp only
  refine .trans ?_ (.of_eq (latchZone_ss _ _) rfl)
  split
  · exact (hheld.trans (offerLane_storeKept i _ _)).trans (skipNewLanes_storeKept _ _)
  · exact hheld.trans (offerLane_storeKept i _ _)

theorem takeReclaim_storeKept (cfg : Startup) (s : State) (i : Nat) : StoreKept s (takeReclaim cfg s i) := by
  unfold takeReclaim
  split
  · rename_i e he
    exact (reclaim_storeKept cfg he).ite
  · exact .refl s

theorem takeAbsent_storeKept (cfg : Startup) (s : State) (t : Nat) : StoreKept s (takeAbsent cfg s t) :=
  .of_eq (by simp) (takeAbsent_entries cfg s t)

theorem takeExpire_storeKept (cfg : Startup) (s : State) (t : Nat) : StoreKept s (takeExpire cfg s t) :=
  .of_eq (by simp) (takeExpire_entries cfg s t)

theorem takeSettleEnd_storeKept (s : State) : StoreKept s (takeSettleEnd s) := .of_eq (by simp) (by simp)

theorem takeHeld_storeKept (s : State) : StoreKept s (takeHeld s) := .of_eq (by simp) (by simp)

theorem takeLost_storeKept (s : State) : StoreKept s (takeLost s) := .of_eq (by simp) (by simp)

theorem takeAged_storeKept (cfg : Startup) (s : State) : StoreKept s (takeAged cfg s) :=
  (foldl_storeKept _ (takeReclaim_storeKept cfg) _ s).trans
    ((foldl_storeKept _ (takeAbsent_storeKept cfg) _ _).trans
      ((foldl_storeKept _ (takeExpire_storeKept cfg) _ _).trans
        ((takeSettleEnd_storeKept _).trans ((takeHeld_storeKept _).trans (takeLost_storeKept _)))))

theorem catchUp_storeKept (s : State) : StoreKept s (catchUp s) := by
  unfold catchUp
  split
  · exact (takeTrigger_storeKept _ s).trans (takeAged_storeKept _ _)
  · exact .refl s

theorem catchTrigger_storeKept (s : State) : StoreKept s (catchTrigger s) := by
  unfold catchTrigger
  split
  · exact takeTrigger_storeKept _ s
  · exact .refl s

/-! ### The treatment of a row -/

theorem freeEntry_storeKept (i : Nat) (s : State) : StoreKept s (freeEntry i s) := by
  unfold freeEntry
  split
  · exact .refl s
  · rename_i e he
    refine .trans (b := (s.setEntry i none).mapEntries (Entry.dropPartner i)) (.of_entries rfl ?_)
      (stopLanes_storeKept _ _ _)
    exact (setEntry_tagsKept he fun _ h => by cases h).trans
      (mapEntries_tagsKept _ fun d => by unfold Entry.dropPartner; split <;> rfl)

theorem updateEntry_storeKept (row : RowInProcess) (taken : List Pairing) (s : State) (i : Nat) :
    StoreKept s (updateEntry row taken s i) := by
  unfold updateEntry
  split
  · exact .refl s
  · rename_i e he
    dsimp only
    split
    · split
      · exact setEntry_offerLane_storeKept he (by rfl) _
      · exact setEntry_storeKept he rfl
    · exact setEntry_storeKept he rfl
    · split
      · exact freeEntry_storeKept i s
      · split
        · exact freeEntry_storeKept i s
        · exact setEntry_storeKept he rfl

theorem mergeAt_storeKept (s : State) (i : Nat) : StoreKept s (mergeAt s i) := by
  unfold mergeAt
  split
  · split
    · split
      · exact (freeEntry_storeKept _ s).ite
      · exact .refl s
    · exact .refl s
  · exact .refl s

theorem makeRoom_storeKept {made : List Nat} {s s' : State} {i : Nat} (h : makeRoom made s = some (i, s')) :
    StoreKept s s' := by
  unfold makeRoom at h
  split at h
  · cases h
    exact .refl s
  · obtain ⟨j, -, hj⟩ := Option.map_eq_some_iff.mp h
    cases hj
    exact freeEntry_storeKept _ s

theorem createFrom_storeKept (mount : Int) (acc : List Nat × State) (c : Candidate) :
    StoreKept acc.2 (createFrom mount acc c).2 := by
  unfold createFrom
  dsimp only
  split
  · split
    · rename_i h
      exact (makeRoom_storeKept h).trans (placeEntry_storeKept _ (fun _ _ => rfl) _)
    · exact .of_eq rfl rfl
  · exact .refl _

theorem createEntries_storeKept (mount : Int) (row : RowInProcess) (taken : List Pairing) (s : State) :
    StoreKept s (createEntries mount row taken s) :=
  StoreKept.ite (foldl_related (fun a b : List Nat × State => StoreKept a.2 b.2) (fun a => .refl a.2)
    (fun _ _ _ => .trans) _ (createFrom_storeKept mount) _ ([], s))

theorem handOver_storeKept {i : Nat} {e : Entry} (target : Nat) {s : State} (he : s.tt.entry i = some e) :
    StoreKept s (handOver i e target s) := by
  have hqueued : StoreKept s (queueHandover (handoverTelegram e target s.du.frameIndex) s) :=
    .of_eq (by simp) (by simp)
  refine (hqueued.trans (setEntry_storeKept (e := e) (e' := e.yieldTo target) ?_ rfl)).trans (stopLanes_storeKept _ _ _)
  rw [queueHandover_tt]
  exact he

theorem ownershipTest_storeKept (frame : Word32) (s : State) (i : Nat) :
    StoreKept s (ownershipTest frame s i) := by
  unfold ownershipTest
  split
  · exact .refl s
  · rename_i e he
    have howned : StoreKept s (match handoverTarget s.tt.zone e.x with
        | some target => handOver i e target s
        | none => s) := by
      split
      · exact handOver_storeKept _ he
      · exact .refl s
    split
    · exact howned
    · exact howned
    · exact StoreKept.ite (setEntry_offerLane_storeKept he (by rfl) frame)
    · exact .refl s
    · exact .refl s

theorem handOn_storeKept (cfg : Startup) (row : RowInProcess) (taken : List Pairing) (before : TrackTable)
    (s : State) (i : Nat) : StoreKept s (handOn cfg row taken before s i) := by
  have hhit (c : Option Candidate) (tag : Byte) (shared : Bool) :
      StoreKept s ((c.map fun cand => handOnHit cfg row tag cand shared s).getD s) := by
    cases c with
    | none => exact .refl s
    | some c => exact handOnHit_storeKept cfg row tag c shared s
  unfold handOn
  split
  · refine StoreKept.ite ?_
    split
    · exact hhit _ _ _
    · exact hhit _ _ _
    · exact .refl s
  · exact .refl s

theorem treatRow_storeKept (cfg : Startup) (row : RowInProcess) (s : State) : StoreKept s (treatRow cfg row s) :=
  (foldl_storeKept _ (updateEntry_storeKept row _) _ s).trans
    ((foldl_storeKept _ mergeAt_storeKept _ _).trans
      ((createEntries_storeKept cfg.mountOffset row _ _).trans
        ((foldl_storeKept _ (ownershipTest_storeKept row.frame) _ _).trans
          (foldl_storeKept _ (handOn_storeKept cfg row _ s.tt) _ _))))

theorem associateRow_storeKept (cfg : Startup) (row : RowInProcess) (s : State) :
    StoreKept s (associateRow cfg row s) :=
  .trans (.of_eq (by simp) (by simp)) (treatRow_storeKept cfg _ _)

/-! ### Rows and exposures -/

theorem expectRow_storeKept (cfg : Startup) (r : ExpectedRow) (s : State) : StoreKept s (expectRow cfg r s) := by
  unfold expectRow
  split
  · exact .of_eq rfl rfl
  · split
    · exact .of_eq rfl rfl
    · exact (treatAbsent_storeKept cfg _ _).after rfl rfl

theorem olderAbsent_storeKept (cfg : Startup) (rest : List ExpectedRow) :
    ∀ (older : List ExpectedRow) (s : State), StoreKept s (olderAbsent cfg rest older s)
  | [], s => .refl s
  | e :: older, s => .trans (b := s.setFe { s.fe with expected := older ++ rest }) (.of_eq rfl rfl)
      ((treatAbsent_storeKept cfg _ e.frame).trans (olderAbsent_storeKept cfg rest older _))

theorem matchRow_storeKept (cfg : Startup) (row : SensorRow) (s : State) : StoreKept s (matchRow cfg row s) := by
  unfold matchRow
  split
  · exact .of_eq rfl rfl
  · rename_i older m newer _
    refine .trans ?_ (.of_eq (takeNextRow_ss _) (congrArg _ (takeNextRow_tt _)))
    unfold joinQueue
    dsimp only
    refine (olderAbsent_storeKept cfg (m :: newer) older s).trans ?_
    split
    · exact .of_eq rfl rfl
    · exact (treatAbsent_storeKept cfg _ _).after rfl rfl

theorem takeStrayCount_storeKept (cfg : Startup) (n : Nat) (s : State) : StoreKept s (takeStrayCount cfg n s) := by
  have hset (k : Nat) : StoreKept s (s.setEc { s.ec with strayStreak := k }) := .of_eq rfl rfl
  unfold takeStrayCount
  split
  · exact hset 0
  · split
    · exact hset 1
    · refine (hset 0).trans ?_
      unfold interference
      dsimp only
      split
      · exact .of_eq rfl rfl
      · exact answerAmbient_storeKept _

theorem finishDarkRow_storeKept (cfg : Startup) (row : RowInProcess) (s : State) :
    StoreKept s (finishDarkRow cfg row s) := by
  rw [finishDarkRow_eq]
  refine .trans (.trans (.trans ?_ (naturalEnd_storeKept cfg _ _)) (settleReady_storeKept cfg _))
    (.of_eq (takeNextRow_ss _) (congrArg _ (takeNextRow_tt _)))
  exact (takeStrayCount_storeKept cfg (strayCount cfg row.cells) s).trans (.of_eq rfl rfl)

/-! ### Telegrams -/

theorem judgeRun_storeKept (cfg : Startup) (t : RxTelegram) (s : State) : StoreKept s (judgeRun cfg t s) := by
  have hset (u : StartupControl) : StoreKept s (s.setSrc u) := .of_eq rfl rfl
  have htake (run : Word16) (st : RunState) (cls : Nat) : StoreKept s (takeRun cfg run st cls s) := by
    unfold takeRun
    dsimp only
    split
    · exact (hset _).trans (closeBlock_storeKept cfg _ _).ite
    · exact hset _
  unfold judgeRun
  dsimp only
  split
  · exact (htake _ _ _).ite
  · exact .refl s

theorem matchingEntry_entry {t : TrackTable} {ok : Entry → Bool} {x : Int} {within i : Nat} {e : Entry}
    (h : matchingEntry t ok x within = some (i, e)) : t.entry i = some e :=
  (mem_matchable.mp (pickFirst_mem (Option.filter_eq_some_iff.mp h).1)).1

theorem Entry.adopt_tag (e : Entry) (o : Origin) (rate : Int) : (e.adopt o rate).tag = e.tag := by
  unfold Entry.adopt
  cases e.state <;> rfl

theorem adoptInPlace_storeKept {i : Nat} {e : Entry} (o : Origin) (rate : Int) {s : State}
    (he : s.tt.entry i = some e) : StoreKept s (adoptInPlace i e o rate s) := by
  have hset : StoreKept s (s.setEntry i (some (e.adopt o rate))) := setEntry_storeKept he (e.adopt_tag o rate)
  have hcopied : StoreKept s (match e.lane with
      | some slot => (s.setEntry i (some (e.adopt o rate))).setSs
          { s.ss with openBlock := s.ss.openBlock.map (copyOrigin slot o) }
      | none => s.setEntry i (some (e.adopt o rate))) := by
    split
    · exact hset.trans (mapOpen_storeKept _ (copyOrigin_kept _ o))
    · exact hset
  unfold adoptInPlace
  dsimp only
  split
  · exact hcopied
  · exact hcopied
  all_goals exact hset.trans (offerLane_storeKept i _ _)

theorem takeHandover_storeKept (cfg : Startup) (t : RxTelegram) (s : State) :
    StoreKept s (takeHandover cfg t s) := by
  unfold takeHandover
  refine StoreKept.ite ?_
  split
  · rename_i h
    exact adoptInPlace_storeKept _ _ (matchingEntry_entry h)
  · unfold adoptNew
    split
    · rename_i h
      exact (makeRoom_storeKept h).trans
        ((placeEntry_storeKept _ (fun _ _ => rfl) _).trans (offerLane_storeKept _ _ _))
    · exact .of_eq rfl rfl

theorem checkDuplicate_storeKept (cfg : Startup) (t : RxTelegram) (s : State) :
    StoreKept s (checkDuplicate cfg t s) := by
  unfold checkDuplicate
  refine StoreKept.ite ?_
  split
  · rename_i i e _ h _
    exact StoreKept.ite ((setEntry_storeKept (e' := { e with state := .watched, lane := none })
      (matchingEntry_entry h) rfl).trans (stopLanes_storeKept _ _ _))
  · exact .refl s

theorem takeSighting_storeKept (cfg : Startup) (t : RxTelegram) (s : State) :
    StoreKept s (takeSighting cfg t s) := by
  unfold takeSighting
  split
  · split
    · split
      · exact freeEntry_storeKept _ s
      · exact .refl s
    · exact checkDuplicate_storeKept cfg t s
  · exact checkDuplicate_storeKept cfg t s

theorem takeAttitude_storeKept (cfg : Startup) (t : RxTelegram) (s : State) : StoreKept s (takeAttitude cfg t s) :=
  .of_eq rfl rfl

theorem writeNeighbour_storeKept (cfg : Startup) (t : RxTelegram) (s : State) :
    StoreKept s (writeNeighbour cfg t s) := .of_eq (setNeighbour_ss _ _ _) (congrArg _ (setNeighbour_tt _ _ _))

/-! ### The commands -/

theorem inOperating_storeKept {act : Startup → State → State} (h : ∀ cfg s, StoreKept s (act cfg s)) (s : State) :
    StoreKept s (inOperating act s) := by
  unfold inOperating
  split
  · exact h _ s
  · exact .refl s

/-- What an action of an OPERATING part keeps, on what has been caught up. -/
theorem caughtUp_storeKept {act : Startup → State → State} (h : ∀ cfg s, StoreKept s (act cfg s)) (s : State) :
    StoreKept s (inOperating act (catchUp s)) :=
  (catchUp_storeKept s).trans (inOperating_storeKept h _)

/-- What an action of a due event keeps, on the trigger that has been taken. -/
theorem triggered_storeKept {act : Startup → State → State} (h : ∀ cfg s, StoreKept s (act cfg s)) (s : State) :
    StoreKept s (inOperating act (catchTrigger s)) :=
  (catchTrigger_storeKept s).trans (inOperating_storeKept h _)

/-- A telegram taken, on what has been caught up. -/
theorem caughtUp_takeTelegram_storeKept {k : Kind} {act : Startup → RxTelegram → State → State}
    (h : ∀ cfg t s, StoreKept s (act cfg t s)) (s : State) : StoreKept s (takeTelegram k act (catchUp s)) := by
  refine (catchUp_storeKept s).trans ?_
  unfold takeTelegram
  split
  · exact StoreKept.ite (.trans (b := freeBuffer (catchUp s)) (.of_eq rfl rfl) (h _ _ _))
  · exact .refl _

theorem caughtUp_onLine_storeKept (act : LinkController → LinkController) (s : State) :
    StoreKept s (onLine act (catchUp s)) := by
  refine (catchUp_storeKept s).trans ?_
  unfold onLine
  split
  · exact .refl _
  · exact .of_eq rfl rfl

theorem execLoading_storeKept {c : Instr} {s t : State} (h : exec c s = .next t)
    (hc : (∃ straps, c = .resetEnd straps) ∨ c = .configReadStart ∨ (∃ levels, c = .configReadDone levels)
      ∨ c = .loadingEnd ∨ c = .headstateTimer) : StoreKept s t := by
  refine (catchUp_storeKept s).trans ?_
  rcases hc with ⟨straps, rfl⟩ | rfl | ⟨levels, rfl⟩ | rfl | rfl
  · simp only [exec, execResetEnd] at h
    split at h <;> cases h <;> exact .of_eq rfl rfl
  · simp only [exec, execConfigReadStart] at h
    split at h <;> cases h <;> exact .of_eq rfl rfl
  · simp only [exec, execConfigReadDone] at h
    split at h <;> cases h <;> exact .of_eq rfl rfl
  · simp only [exec, execLoadingEnd, endLoading] at h
    split at h <;> cases h
    · split <;> exact .of_eq (by simp [acceptBlock]) (by simp [acceptBlock])
    · exact .refl _
  · simp only [exec, execHeadstateTimer] at h
    split at h <;> cases h <;> exact .of_eq (by simp) (by simp)

theorem execTravel_storeKept {c : Instr} {s t : State} (h : exec c s = .next t)
    (hc : (∃ dir, c = .tick dir) ∨ c = .rateWindowEnd ∨ c = .pole) : StoreKept s t := by
  rcases hc with ⟨dir, rfl⟩ | rfl | rfl
  · refine (catchUp_storeKept s).trans ?_
    simp only [exec, execTick] at h
    split at h <;> cases h
    · exact .refl _
    · unfold tickOperating
      dsimp only
      split
      · exact .of_eq rfl rfl
      · refine .trans (.trans ?_ (closeBlock_storeKept _ _ _)) (.of_eq rfl rfl)
        exact .of_entries rfl (mapEntries_tagsKept _ fun _ => rfl)
    · exact .of_eq rfl rfl
  · refine (catchUp_storeKept s).trans ?_
    simp only [exec, execRateWindowEnd] at h
    split at h <;> cases h <;> exact .of_eq rfl rfl
  · cases h
    refine caughtUp_storeKept (fun cfg s => ?_) s
    dsimp only
    split
    · exact (closeBlock_storeKept cfg _ _).after rfl rfl
    · exact .of_eq rfl rfl

theorem execSlotCycle_storeKept {c : Instr} {s t : State} (h : exec c s = .next t)
    (hc : c = .slotCycleEnd ∨ c = .exposeRise ∨ c = .exposeFall) : StoreKept s t := by
  rcases hc with rfl | rfl | rfl <;> cases h <;> refine caughtUp_storeKept (fun cfg s => ?_) s <;> split
  · exact StoreKept.ite (.of_eq rfl rfl)
  · exact .refl s
  · exact StoreKept.ite ((expectRow_storeKept cfg _ _).after rfl rfl)
  · exact .refl s
  · exact StoreKept.ite (.of_eq rfl rfl)
  · exact .refl s

theorem execSensor_storeKept {c : Instr} {s t : State} (h : exec c s = .next t)
    (hc : c = .srfRise ∨ ∃ nibbles, c = .rowArrival nibbles) : StoreKept s t := by
  refine (catchUp_storeKept s).trans ?_
  rcases hc with rfl | ⟨nibbles, rfl⟩
  · simp only [exec, execSrfRise] at h
    split at h <;> cases h <;> exact .of_eq rfl rfl
  · simp only [exec, execRowArrival] at h
    split at h <;> cases h
    · refine .trans (b := (catchUp s).setFe { (catchUp s).fe with receiving := false }) (.of_eq rfl rfl)
        (inOperating_storeKept (fun cfg s => ?_) _)
      split
      · exact .of_eq rfl rfl
      · exact matchRow_storeKept cfg _ s
    · exact .refl _

theorem execRows_storeKept {c : Instr} {s t : State} (h : exec c s = .next t)
    (hc : c = .darkRowDone ∨ c = .rowAssociation ∨ c = .litRowEnd ∨ c = .wearComplete) : StoreKept s t := by
  rcases hc with rfl | rfl | rfl | rfl <;> cases h <;> refine caughtUp_storeKept (fun cfg s => ?_) s <;> split
  · exact (finishDarkRow_storeKept cfg _ s).ite
  · exact .refl s
  · exact (associateRow_storeKept cfg _ s).ite
  · exact .refl s
  · refine StoreKept.ite (.trans (.trans ?_ (settleReady_storeKept cfg _))
      (.of_eq (takeNextRow_ss _) (congrArg _ (takeNextRow_tt _))))
    exact .of_eq rfl rfl
  · exact .refl s
  · rename_i hk
    exact completeBank_storeKept cfg hk
  · exact .refl s

theorem execTransmission_storeKept {c : Instr} {s t : State} (h : exec c s = .next t)
    (hc : c = .transmitError ∨ c = .transmitComplete ∨ c = .telegramDiscard) : StoreKept s t := by
  refine (catchUp_storeKept s).trans ?_
  rcases hc with rfl | rfl | rfl
  · cases h
    exact StoreKept.ite (.of_eq (by simp [loseTransmission]) (by simp [loseTransmission]))
  · cases h
    exact StoreKept.ite (.of_eq (by simp [completeTransmission]) (by simp [completeTransmission]))
  · simp only [exec, execTelegramDiscard] at h
    split at h <;> cases h <;> exact .of_eq rfl rfl

/-- Every command but RESET. -/
theorem exec_storeKept {c : Instr} {s t : State} (hc : c ≠ .reset) (h : exec c s = .next t) : StoreKept s t := by
  cases c with
  | reset => exact absurd rfl hc
  | resetEnd _ | configReadStart | configReadDone _ | loadingEnd | headstateTimer =>
    exact execLoading_storeKept h (by simp)
  | tick _ | rateWindowEnd | pole => exact execTravel_storeKept h (by simp)
  | slotCycleEnd | exposeRise | exposeFall => exact execSlotCycle_storeKept h (by simp)
  | srfRise | rowArrival _ => exact execSensor_storeKept h (by simp)
  | darkRowDone | rowAssociation | litRowEnd | wearComplete => exact execRows_storeKept h (by simp)
  | transmitError | transmitComplete | telegramDiscard => exact execTransmission_storeKept h (by simp)
  | frameTrigger => cases h; exact catchTrigger_storeKept s
  | yieldReclaim i => cases h; exact triggered_storeKept (takeReclaim_storeKept · · i) s
  | neighbourAbsent n => cases h; exact triggered_storeKept (takeAbsent_storeKept · · n) s
  | notTakingExpire n => cases h; exact triggered_storeKept (takeExpire_storeKept · · n) s
  | settleEnd => cases h; exact triggered_storeKept (fun _ => takeSettleEnd_storeKept) s
  | attitudeHeld => cases h; exact triggered_storeKept (fun _ => takeHeld_storeKept) s
  | attitudeLost => cases h; exact triggered_storeKept (fun _ => takeLost_storeKept) s
  | runTelegram => cases h; exact caughtUp_takeTelegram_storeKept judgeRun_storeKept s
  | attitudeTelegram => cases h; exact caughtUp_takeTelegram_storeKept takeAttitude_storeKept s
  | headstateTelegram => cases h; exact caughtUp_takeTelegram_storeKept writeNeighbour_storeKept s
  | adoption => cases h; exact caughtUp_takeTelegram_storeKept takeHandover_storeKept s
  | sightingTelegram => cases h; exact caughtUp_takeTelegram_storeKept takeSighting_storeKept s
  | telegramReceived _ | transmitStart | arbitrationLost | arbitrationWon | lineIdle | startBit =>
    cases h; exact caughtUp_onLine_storeKept _ s

/-! ### The invariants -/

/-- A step idles, resets the part, or runs another command. -/
theorem step_cases {s t : State} (h : step s = .next t) :
    t = s ∨ (∃ rest, t = State.reset.setPending rest) ∨ ∃ rest, StoreKept (s.setPending rest) t := by
  unfold step at h
  split at h
  · cases h
    exact .inl rfl
  · rename_i c rest _
    by_cases hc : c = .reset
    · subst hc
      cases h
      exact .inr (.inl ⟨rest, rfl⟩)
    · exact .inr (.inr ⟨rest, exec_storeKept hc h⟩)

/-- After RESET the Strip Store holds no block. -/
theorem reset_holds (rest : List Instr) (b : Block) : ¬(State.reset.setPending rest).ss.Holds b := by
  simp [StripStore.Holds, StripStore.BankHolds, State.reset, State.setPending, StripStore.reset]

/-- Settles O58: RESET leaves no block, and every other command keeps each block's bound or opens a fresh one. -/
theorem stepKeepsStripsBounded : Obligations.StepKeepsStripsBounded := by
  intro s t hs h
  rw [stripsBounded_iff] at hs ⊢
  rcases step_cases h with rfl | ⟨rest, rfl⟩ | ⟨rest, hk⟩
  · exact hs
  · exact fun b hb => absurd hb (reset_holds rest b)
  · intro c hc
    rcases hk.blocks c hc with ⟨hfresh, -⟩ | ⟨b, hb, hbc⟩
    · exact hfresh
    · exact hbc.strips (hs b hb)

/-- RESET frees both banks (R126). -/
theorem reset_owned (rest : List Instr) : (State.reset.setPending rest).ss.Owned := by
  refine ⟨⟨rfl, fun p hp => absurd hp List.not_mem_nil, List.nodup_nil, fun k => ?_⟩,
    fun b hb => absurd hb List.not_mem_nil⟩
  exact ⟨fun ⟨b, hb⟩ => absurd (.inr (.inr (.inr (List.mem_of_getElem? hb)))) (reset_holds rest b),
    fun h => by cases h⟩

/-- RESET empties the Track Table (R70). -/
theorem reset_tagsOwned (rest : List Instr) : (State.reset.setPending rest).TagsOwned := by
  refine .of_parts (fun i j a b ha _ _ => ?_) rfl fun b hb => absurd hb (reset_holds rest b)
  have hm : some a ∈ List.replicate 8 none := entry_mem ha
  cases List.eq_of_mem_replicate hm

/-- Settles O59: RESET frees both banks and every entry, and every other command keeps the ownership of banks and, with
it, of tags. -/
theorem stepKeepsBankOwnership : Obligations.StepKeepsBankOwnership := by
  intro s t hs h
  rw [banksOwned_iff] at hs ⊢
  rcases step_cases h with rfl | ⟨rest, rfl⟩ | ⟨rest, hk⟩
  · exact ⟨hs, id⟩
  · exact ⟨reset_owned rest, fun _ => reset_tagsOwned rest⟩
  · exact ⟨hk.owned hs, fun ht =>
      hk.tags hs ⟨ht.distinct, ht.entries, ht.openLanes, ht.settlingLanes, ht.bankLanes⟩⟩

end Sys2Proof.Machine
end

section
/-! SUPPORT. What an opening and a group's start leave after a frame trigger. -/

namespace Sys2Proof.Machine

/-! ### The opening at a trigger -/

/-- With no block open a trigger in RUN opens one on what it has aged (R127). -/
theorem triggerBlocks_opening (cfg : Startup) {s : State} (hr : s.src.runState = .run)
    (hn : s.ss.openBlock = none) : triggerBlocks cfg s = openBlock cfg s := by
  have hend : afterGroupEnd cfg s = s := by
    unfold afterGroupEnd
    rw [closeBlock_of_none cfg _ s hn, ite_self]
  rw [triggerBlocks_eq]
  simp only [hend, hr, hn, if_true]

/-- The entry at an index once a trigger has aged it (R71, R114). -/
theorem entry_aged (cfg : Startup) (s : State) (i : Nat) :
    (triggerAgeing cfg s).tt.entry i = (s.tt.entry i).map Entry.atTrigger := by
  show ((s.tt.entries.map fun p => p.map Entry.atTrigger).getD i none) = (s.tt.entries.getD i none).map _
  rw [List.getD_eq_getElem?_getD, List.getD_eq_getElem?_getD, List.getElem?_map]
  cases s.tt.entries[i]? <;> rfl

/-- Ageing leaves an entry OWNED or COASTING, or neither, as it was. -/
theorem ownerAt_aged (cfg : Startup) (s : State) (i : Nat) :
    ownerAt (triggerAgeing cfg s) i = (ownerAt s i).map Entry.atTrigger := by
  unfold ownerAt
  rw [entry_aged]
  cases s.tt.entry i with
  | none => rfl
  | some e =>
    rw [Option.map_some, Option.filter_some, Option.filter_some]
    show (if decide (e.state = .owned ∨ e.state = .coasting) = true then some e.atTrigger else none) = _
    split <;> rfl

/-- Ageing changes nothing that a lane takes from its entry (R128). -/
theorem lanesFor_aged (f : Word32) (es : List Entry) : lanesFor f (es.map Entry.atTrigger) = lanesFor f es := by
  simp only [lanesFor, List.zipIdx_map, List.map_map]
  rfl

theorem owners_aged (cfg : Startup) (s : State) (n : Nat) :
    (List.range n).filterMap (ownerAt (triggerAgeing cfg s)) =
      ((List.range n).filterMap (ownerAt s)).map Entry.atTrigger := by
  rw [List.map_filterMap]
  exact List.filterMap_congr fun i _ => ownerAt_aged cfg s i

/-- The block that a trigger opens (R127, R128, R67). -/
def triggerBlock (cfg : Startup) (s : State) : Block :=
  openedBlock cfg (triggerAgeing cfg s) (lanesFor (s.du.frameIndex + 1) ((List.range 8).filterMap (ownerAt s)))

/-- What a trigger does once the ageing has left `u`, in RUN with no block open and no cycle in progress: it opens a
block, and the slot cycle that begins leaves what the opening did. -/
theorem triggerParts_open (cfg : Startup) {u t : State} (hr : u.src.runState = .run) (hn : u.ss.openBlock = none)
    (hc : u.ec.cycle = none) (ht : triggerHeadstate (triggerExposure cfg (triggerBlocks cfg u)) = t) :
    t.ss = (openBlock cfg u).ss ∧ t.src = (openBlock cfg u).src ∧ t.tt = (openBlock cfg u).tt
      ∧ (u.du.frameIndex.toNat % 32 ≠ 31 → t.lc = (openBlock cfg u).lc) := by
  obtain ⟨e, he⟩ : ∃ e, triggerExposure cfg (triggerBlocks cfg u) = (triggerBlocks cfg u).setEc e := by
    unfold triggerExposure
    rw [triggerBlocks_ec, hc]
    exact ⟨_, rfl⟩
  rw [← ht, he, ← triggerBlocks_opening cfg hr hn, triggerHeadstate_ss, triggerHeadstate_src, triggerHeadstate_tt]
  refine ⟨rfl, rfl, rfl, fun h31 => ?_⟩
  unfold triggerHeadstate
  rw [if_neg (by rw [State.setEc_du, triggerBlocks_du]; exact h31)]
  rfl

/-- The Strip Store and the entries after a trigger in RUN with no block open and no cycle in progress (R127, R128). -/
theorem frameTrigger_opens (cfg : Startup) {s : State} (hr : s.src.runState = .run) (hn : s.ss.openBlock = none)
    (hc : s.ec.cycle = none) :
    (frameTrigger cfg s).ss = s.ss.opened (triggerBlock cfg s)
      ∧ (∀ i < 8, ∀ e, ownerAt s i = some e → (frameTrigger cfg s).tt.entry i = some { e.atTrigger with
          lane := some ((List.range i).filterMap (ownerAt s)).length, reclaimMark := false })
      ∧ ∀ i, ownerAt s i = none → (frameTrigger cfg s).tt.entry i = (s.tt.entry i).map Entry.atTrigger := by
  obtain ⟨hss, -, -, -, hbound, hother⟩ := openBlock_opens cfg (triggerAgeing cfg s)
  obtain ⟨hss', -, htt, -⟩ := triggerParts_open cfg (u := triggerAgeing cfg s) (t := frameTrigger cfg s) hr hn hc rfl
  rw [hss', htt]
  refine ⟨?_, fun i hi e he => ?_, fun i hi => ?_⟩
  · rw [owners_aged, lanesFor_aged] at hss
    exact hss
  · have hlane := hbound i hi e.atTrigger (by rw [ownerAt_aged, he]; rfl)
    rwa [owners_aged, List.length_map] at hlane
  · exact (hother i (by rw [ownerAt_aged, hi]; rfl)).trans (entry_aged cfg s i)

/-- The class and the flag that such an opening sets (R127, R203). -/
theorem frameTrigger_opening_flag (cfg : Startup) {s : State} (hr : s.src.runState = .run)
    (hn : s.ss.openBlock = none) (hc : s.ec.cycle = none) :
    (frameTrigger cfg s).src.currentClass = s.src.pendingClass
      ∧ ((s.du.frameIndex + 1).toNat % 32 ≠ 31 →
          (frameTrigger cfg s).lc = if s.ss.freeBank = none then s.lc.raise .bankStarved else s.lc) := by
  obtain ⟨-, -, hsrc, hlc, -⟩ := openBlock_opens cfg (triggerAgeing cfg s)
  obtain ⟨-, hsrc', -, hlc'⟩ :=
    triggerParts_open cfg (u := triggerAgeing cfg s) (t := frameTrigger cfg s) hr hn hc rfl
  exact ⟨by rw [hsrc', hsrc]; rfl, fun h31 => (hlc' h31).trans hlc⟩

/-- Settles O13: the block that opens, its bank, its lanes and the entries they are bound to. -/
theorem frameTriggerOpensBlock : Obligations.FrameTriggerOpensBlock := by
  intro cfg s hp h0 hr hn hc owner isFree
  obtain ⟨hss, hbound, hother⟩ := frameTrigger_opens cfg hr hn hc
  obtain ⟨hclass, hlc⟩ := frameTrigger_opening_flag cfg hr hn hc
  have hkeep : (frameTrigger cfg s).keep = keepFactor cfg.rules s.fe.queue.length s.du.rateLast := by
    rw [frameTrigger_keep, if_pos (.inl ⟨hr, hn⟩)]
  refine ⟨_, triggerBlock cfg s, exec_frameTrigger_due hp h0, hkeep, hclass, ?_, ?_, fun k hk => ?_, fun hk => ?_,
    fun h31 => ?_, rfl, fun i e hi he => ?_⟩
  · rw [hss]
    rfl
  · rw [hkeep]
    rfl
  · have hfree : s.ss.freeBank = some k := hk
    refine ⟨(freeBank_some hfree).1, (freeBank_some hfree).2, ?_⟩
    rw [hss, StripStore.opened, hfree]
  · have hfree : s.ss.freeBank = none := hk
    refine ⟨freeBank_none hfree, ?_⟩
    rw [hss, StripStore.opened, hfree]
  · have hbank : (triggerBlock cfg s).bank = s.ss.freeBank := rfl
    rw [hlc h31, hbank]
    split <;> rfl
  · cases ho : owner i with
    | none =>
      exact ⟨e.atTrigger, by rw [hother i ho, he]; rfl, rfl, fun h => absurd rfl h, fun _ => ⟨rfl, rfl⟩⟩
    | some d =>
      obtain rfl : e = d := Option.some.inj (he.symm.trans (Option.filter_eq_some_iff.mp ho).1)
      exact ⟨_, hbound i hi e ho, rfl, fun _ => ⟨rfl, rfl⟩, fun h => by cases h⟩

/-! ### The start of a group -/

/-- In RUN a trigger that starts a group opens its block after the old one has closed (R127, R131). -/
theorem triggerBlocks_groupStart (cfg : Startup) {s : State} (hr : s.src.runState = .run)
    (hg : s.du.frameIndex.toNat % 32 = 0) :
    triggerBlocks cfg s = openBlock cfg (closeBlock cfg (s.du.frameIndex - 1) s) := by
  have hend : afterGroupEnd cfg s = closeBlock cfg (s.du.frameIndex - 1) s := if_pos hg
  rw [triggerBlocks_eq]
  simp only [hend, closeBlock_src, hr, closeBlock_openBlock, if_true]

/-- The first frame of a group leaves the block opened at it open, skipped or not, and the blocks held settling. -/
theorem triggerExposure_groupStart (cfg : Startup) {s : State} {b : Block} (hb : s.ss.openBlock = some b)
    (hg : s.du.frameIndex.toNat % 32 = 0) :
    (∃ c, (triggerExposure cfg s).ss.openBlock = some c ∧ c.openFrame = b.openFrame)
      ∧ (triggerExposure cfg s).ss.settling = s.ss.settling := by
  unfold triggerExposure
  split
  · exact ⟨⟨b, hb, rfl⟩, rfl⟩
  · rw [frameSkipped_counts cfg hb (by omega)]
    exact ⟨⟨_, rfl, rfl⟩, rfl⟩

/-- The old block still waits for a row that is queued, so the close at a group's start holds it settling (R132). -/
theorem closeBlock_queuedRow (cfg : Startup) {s : State} {b : Block} {last : Word32} (hb : s.ss.openBlock = some b)
    (hk : b.bank ≠ none) (hl : b.lanes ≠ [])
    (hq : ∃ r ∈ s.fe.queue, (r.frame - b.openFrame).toNat ≤ (last - b.openFrame).toNat) :
    (closeBlock cfg last s).ss.settling = s.ss.settling ++ [b.closedAt last s.du.distance] := by
  obtain ⟨r, hr, hin⟩ := hq
  have howes : Owes s (b.close last s.du.distance) last :=
    ⟨r.frame, by simp only [heldFrames, List.mem_append, List.mem_map]; exact .inl (.inl (.inr ⟨r, hr, rfl⟩)), hin⟩
  rw [closeBlock_settling cfg last s b hb hk hl ((owesFrames_iff s _ ⟨last, s.du.distance⟩ rfl).mpr howes)]
  rfl

/-- Settles O14: the trigger closes the old block, opens the new one, and its frame, skipped or not, ends neither. -/
theorem groupStartOpensFreshBlock : Obligations.GroupStartOpensFreshBlock := by
  intro cfg s hp h0 hr hg
  let u := triggerAgeing cfg s
  let closed := closeBlock cfg (u.du.frameIndex - 1) u
  have hblocks : triggerBlocks cfg u = openBlock cfg closed := triggerBlocks_groupStart cfg hr hg
  obtain ⟨hopened, -⟩ := openBlock_opens cfg closed
  have hindex : (openBlock cfg closed).du.frameIndex = s.du.frameIndex + 1 := by
    rw [← hblocks, triggerBlocks_du]
    rfl
  obtain ⟨⟨c, hc, hfirst⟩, hsettling⟩ := triggerExposure_groupStart cfg (s := openBlock cfg closed)
    (congrArg StripStore.openBlock hopened) (by rw [hindex]; exact hg)
  have hss : (frameTrigger cfg s).ss = (triggerExposure cfg (openBlock cfg closed)).ss := by
    rw [← hblocks]
    exact triggerHeadstate_ss _
  refine ⟨_, c, exec_frameTrigger_due hp h0, by rw [hss]; exact hc, ?_, fun old hold hbank hlanes hqueued => ?_⟩
  · rw [hfirst]
    show closed.du.frameIndex = _
    rw [closeBlock_du]
    rfl
  · have hlast : u.du.frameIndex - 1 = s.du.frameIndex := add_sub_cancel_right s.du.frameIndex 1
    have hheld := closeBlock_queuedRow cfg (s := u) hold hbank hlanes hqueued
    rw [← hlast] at hheld
    rw [hss, hsettling, hopened]
    exact hheld.trans (by rw [hlast]; rfl)

end Sys2Proof.Machine
end

section
/-! SUPPORT. RUN telegrams: how one is read, and the block that it closes. -/

namespace Sys2Proof.Machine

/-! ### Reading a RUN body -/

/-- The fields of a RUN body, byte by byte (R188). -/
theorem runBodyOf_eq (body : List Byte) :
    runBodyOf body =
      { run := BitVec.ofNat 16 ((body.getD 0 0).toNat * 256 + (body.getD 1 0).toNat)
        state := (body.getD 2 0).toNat, cls := (body.getD 3 0).toNat } := by
  have hbyte (n : Nat) : 0 * 256 + n = n := by omega
  show RunBody.mk (BitVec.ofNat 16 ((0 * 256 + (body.getD 0 0).toNat) * 256 + (body.getD 1 0).toNat))
    (0 * 256 + (body.getD 2 0).toNat) (0 * 256 + (body.getD 3 0).toNat) = _
  rw [hbyte, hbyte, hbyte]

/-- The run state that a byte of 0 to 2 names (R188). -/
def runStateNamed (code : Nat) : RunState := if code = 0 then .idle else if code = 1 then .run else .pause

theorem runStateOf_named {code : Nat} (h : code ≤ 2) : runStateOf code = some (runStateNamed code) := by
  rcases code with _ | _ | _ | code
  · rfl
  · rfl
  · rfl
  · omega

/-- A byte above 2 names none (R202). -/
theorem runStateOf_none {code : Nat} (h : 2 < code) : runStateOf code = none := by
  rcases code with _ | _ | _ | code
  · omega
  · omega
  · omega
  · rfl

theorem runStateNamed_ne_run (code : Nat) : runStateNamed code ≠ .run ↔ code ≠ 1 := by
  unfold runStateNamed
  split
  · simp_all
  · split <;> simp_all

/-- A RUN telegram of a class above 3, or a state above 2, is without effect (R202). -/
theorem judgeRun_refused (cfg : Startup) {x : RxTelegram} (u : State)
    (h : 2 < (x.body.getD 2 0).toNat ∨ 3 < (x.body.getD 3 0).toNat) : judgeRun cfg x u = u := by
  unfold judgeRun
  rw [runBodyOf_eq]
  dsimp only
  split
  · rename_i st hst
    refine if_neg fun hcls => ?_
    rcases h with h | h
    · rw [runStateOf_none h] at hst
      cases hst
    · exact absurd hcls (Nat.not_le.mpr h)
  · rfl

/-- Any other is taken (R202). -/
theorem judgeRun_taken (cfg : Startup) {x : RxTelegram} (u : State) (hcode : (x.body.getD 2 0).toNat ≤ 2)
    (hcls : (x.body.getD 3 0).toNat ≤ 3) :
    judgeRun cfg x u = takeRun cfg (BitVec.ofNat 16 ((x.body.getD 0 0).toNat * 256 + (x.body.getD 1 0).toNat))
      (runStateNamed (x.body.getD 2 0).toNat) (x.body.getD 3 0).toNat u := by
  unfold judgeRun
  rw [runBodyOf_eq]
  dsimp only
  rw [runStateOf_named hcode]
  exact if_pos hcls

/-! ### The run it sets -/

theorem runCloses_iff (run : Word16) (code cls current : Nat) (b : Block) :
    runCloses run (runStateNamed code) cls current b = true ↔ code ≠ 1 ∨ run ≠ b.run ∨ cls ≠ current := by
  rw [runCloses, Bool.or_eq_true, Bool.or_eq_true, bne_iff_ne, bne_iff_ne, bne_iff_ne, runStateNamed_ne_run, or_assoc]

/-- The state with the run of a RUN telegram (R202). -/
def State.runSet (u : State) (run : Word16) (st : RunState) (cls : Nat) : State :=
  u.setSrc { u.src with runState := st, runNumber := run, pendingClass := cls }

/-- An open block that fits the run stays open (R203). -/
theorem takeRun_fits (cfg : Startup) {run : Word16} {code cls : Nat} {u : State}
    (h : ∀ b, u.ss.openBlock = some b → code = 1 ∧ run = b.run ∧ cls = u.src.currentClass) :
    takeRun cfg run (runStateNamed code) cls u = u.runSet run (runStateNamed code) cls := by
  unfold takeRun
  dsimp only
  split
  · rename_i b hb
    obtain ⟨hcode, hrun, hcls⟩ := h b hb
    refine if_neg fun hcloses => ?_
    rcases (runCloses_iff run code cls _ b).mp hcloses with hne | hne | hne
    · exact hne hcode
    · exact hne hrun
    · exact hne hcls
  · rfl

/-- One that does not is closed at the frame of the latest trigger (R203). -/
theorem takeRun_closes (cfg : Startup) {run : Word16} {code cls : Nat} {u : State} {b : Block}
    (hb : u.ss.openBlock = some b) (h : code ≠ 1 ∨ run ≠ b.run ∨ cls ≠ u.src.currentClass) :
    takeRun cfg run (runStateNamed code) cls u =
      closeBlock cfg u.du.frameIndex (u.runSet run (runStateNamed code) cls) := by
  have hb' : (u.runSet run (runStateNamed code) cls).ss.openBlock = some b := hb
  unfold takeRun
  show (match (u.runSet run (runStateNamed code) cls).ss.openBlock with
    | some b =>
      if runCloses run (runStateNamed code) cls u.src.currentClass b then
        closeNow cfg (u.runSet run (runStateNamed code) cls)
      else u.runSet run (runStateNamed code) cls
    | none => u.runSet run (runStateNamed code) cls) = _
  simp only [hb', if_pos ((runCloses_iff run code cls _ b).mpr h)]
  rfl

/-! ### RUN_TELEGRAM -/

/-- A telegram with the identifier of a RUN of the survey recorder, and its length, is delivered (R173, R178). -/
theorem verdict_run (own : Nat) {x : RxTelegram} (hid : x.ident = 0x10) (hlen : x.body.length = 4) :
    verdict true own x = .deliver .run := by
  have hkind : x.kind = some .run := by rw [RxTelegram.kind, hid]; rfl
  have hstation : x.station = 0 := by rw [RxTelegram.station, hid]; rfl
  simp [verdict, hkind, hstation, lengthAccepted, hlen, Kind.fromHead]

theorem exec_runTelegram {cfg : Startup} {x : RxTelegram} {rest : List RxTelegram} {s : State} (hq : Quiet cfg s)
    (hb : s.lc.rxBuffers = x :: rest) (hid : x.ident = 0x10) (hlen : x.body.length = 4) :
    exec .runTelegram s = .next (judgeRun cfg x (s.buffersLeft rest)) :=
  congrArg _ (takeTelegram_delivered judgeRun hq hb (verdict_run _ hid hlen))

/-- Settling and closing leave the receive buffers alone (R177). -/
theorem closeBlock_rxBuffers (cfg : Startup) (f : Word32) (s : State) :
    (closeBlock cfg f s).lc.rxBuffers = s.lc.rxBuffers := by
  cases hb : s.ss.openBlock with
  | none => rw [closeBlock_of_none cfg f s hb]
  | some b =>
    obtain ⟨hbank, hstarved⟩ := closeBlock_closesTo cfg f hb
    cases hk : b.bank with
    | none => rw [(hstarved hk).1]; rfl
    | some k => rw [(hbank k hk).1]

/-- Settles O47: the telegram is refused, taken with no block to close, or taken with one. -/
theorem runTelegramSetsRun : Obligations.RunTelegramSetsRun := by
  intro cfg x rest s hq hb hid hlen run code cls st freed taken
  have hexec := exec_runTelegram hq hb hid hlen
  refine ⟨fun h => ?_, fun hcode hcls hfits => ?_, fun hcode hcls b hopen hcloses => ?_⟩
  · rw [hexec, judgeRun_refused cfg _ h]
    rfl
  · rw [hexec, judgeRun_taken cfg _ hcode hcls, takeRun_fits cfg (u := s.buffersLeft rest) hfits]
    rfl
  · let u := (s.buffersLeft rest).runSet run st cls
    have hu : u.ss.openBlock = some b := hopen
    refine ⟨closeBlock cfg s.du.frameIndex u, ?_, ?_, ?_⟩
    · rw [hexec, judgeRun_taken cfg _ hcode hcls, takeRun_closes cfg (u := s.buffersLeft rest) hopen hcloses]
      rfl
    · have hbuffers : (closeBlock cfg s.du.frameIndex u).lc.rxBuffers = rest := closeBlock_rxBuffers cfg _ u
      rw [← hbuffers]
      conv_lhs => rw [(closeBlock_frame cfg s.du.frameIndex u).1]
      rfl
    · exact closesTo_congr (s' := u) rfl rfl rfl rfl (closeBlock_closesTo cfg s.du.frameIndex hu)

end Sys2Proof.Machine
end

section
/-! SUPPORT. The outcomes of the wear computation on a lane, in the order of the table of R147, and when each of its
flags is set. -/

namespace Sys2Proof.Machine

/-! ### The outcomes -/

/-- The lane result of a face run from column `a` to column `b` that is measured (R148 to R154). -/
def wornResult (cfg : Startup) (cls : WireClass) (lane : Lane) (a b : Nat) : LaneResult :=
  let v := vote cfg.tFace lane.strips
  let q := halfWidth (width64 v lane.strips.length a b)
  { LaneResult.clear with
    wear := some
      { width := wornWidth (width64 v lane.strips.length a b), height := cls.nominal - wornDepth cls.radius q
        quality := qualityOf v lane.strips.length a b }
    widthSaturated := decide (cls.radius ≤ q)
    belowLimit := cfg.alertBelowLimit && decide (cls.nominal - wornDepth cls.radius q < cls.wearLimit) }

/-- The face run of a lane (R145, R146). -/
def laneRun (cfg : Startup) (lane : Lane) : Option (Nat × Nat) := faceRun (isFace cfg.tFace lane.strips)

/-- What a lane result can be: the four conditions of R147 in their order, or a measured face. -/
inductive LaneOutcome (cfg : Startup) (cls : WireClass) (lane : Lane) (r : LaneResult) : Prop
  | fewRows (rows : lane.strips.length < 8) (result : r = { LaneResult.clear with fewRows := true })
  | noFace (rows : 8 ≤ lane.strips.length) (run : laneRun cfg lane = none)
      (result : r = { LaneResult.clear with noFace := true })
  | windowEdge {a b : Nat} (rows : 8 ≤ lane.strips.length) (run : laneRun cfg lane = some (a, b))
      (edge : a = 0 ∨ b = 63) (result : r = { LaneResult.clear with windowEdge := true })
  | crossing {a b : Nat} (rows : 8 ≤ lane.strips.length) (run : laneRun cfg lane = some (a, b))
      (clear : ClearRun (isFace cfg.tFace lane.strips) a b) (carried : lane.crossing = true)
      (result : r = LaneResult.clear)
  | worn {a b : Nat} (rows : 8 ≤ lane.strips.length) (run : laneRun cfg lane = some (a, b))
      (clear : ClearRun (isFace cfg.tFace lane.strips) a b) (carried : lane.crossing = false)
      (result : r = wornResult cfg cls lane a b)

theorem laneResult_outcome (cfg : Startup) (cls : WireClass) (lane : Lane) :
    LaneOutcome cfg cls lane (laneResult cfg cls lane) := by
  unfold laneResult
  dsimp only
  split
  case isTrue hn => exact .fewRows hn rfl
  case isFalse hn =>
    have hn := Nat.le_of_not_lt hn
    split
    case h_1 hrun => exact .noFace hn hrun rfl
    case h_2 a b hrun =>
      split
      case isTrue hedge => exact .windowEdge hn hrun hedge rfl
      case isFalse hedge =>
        have hclear := faceRun_clear hrun hedge
        split
        case isTrue hc => exact .crossing hn hrun hclear hc rfl
        case isFalse hc => exact .worn hn hrun hclear (by simpa using hc) rfl

/-! ### When each flag is set, and when there is wear -/

section
variable (cfg : Startup) (cls : WireClass) (lane : Lane)

theorem laneResult_fewRows_iff : (laneResult cfg cls lane).fewRows = true ↔ lane.strips.length < 8 := by
  cases laneResult_outcome cfg cls lane with
  | fewRows hn hr => simp [hr, hn]
  | noFace hn _ hr | windowEdge hn _ _ hr | crossing hn _ _ _ hr => simp [hr, LaneResult.clear, hn]
  | worn hn _ _ _ hr => simp [hr, wornResult, LaneResult.clear, hn]

theorem laneResult_noFace_iff :
    (laneResult cfg cls lane).noFace = true ↔ 8 ≤ lane.strips.length ∧ laneRun cfg lane = none := by
  cases laneResult_outcome cfg cls lane with
  | fewRows hn hr => simp [hr, LaneResult.clear, hn]
  | noFace hn hrun hr => simp [hr, hn, hrun]
  | windowEdge _ hrun _ hr | crossing _ hrun _ _ hr => simp [hr, LaneResult.clear, hrun]
  | worn _ hrun _ _ hr => simp [hr, wornResult, LaneResult.clear, hrun]

theorem laneResult_windowEdge_iff :
    (laneResult cfg cls lane).windowEdge = true ↔
      8 ≤ lane.strips.length ∧ ∃ a b, laneRun cfg lane = some (a, b) ∧ (a = 0 ∨ b = 63) := by
  cases laneResult_outcome cfg cls lane with
  | fewRows hn hr => simp [hr, LaneResult.clear, hn]
  | noFace _ hrun hr => simp [hr, LaneResult.clear, hrun]
  | windowEdge hn hrun hedge hr => simp [hr, hn, hrun, hedge]
  | crossing _ hrun hclear _ hr =>
    have := hclear.first
    have := hclear.last
    simp [hr, LaneResult.clear, hrun]
    omega
  | worn _ hrun hclear _ hr =>
    have := hclear.first
    have := hclear.last
    simp [hr, wornResult, LaneResult.clear, hrun]
    omega

/-- A face run off the window's edges, of a lane with 8 rows or more that does not carry CROSSING, is measured. -/
theorem laneResult_eq_wornResult {a b : Nat} (hn : 8 ≤ lane.strips.length) (hc : lane.crossing = false)
    (hrun : laneRun cfg lane = some (a, b)) (ha : 0 < a) (hb : b < 63) :
    laneResult cfg cls lane = wornResult cfg cls lane a b := by
  cases laneResult_outcome cfg cls lane with
  | fewRows hn' _ => omega
  | noFace _ hrun' _ => rw [hrun] at hrun'; cases hrun'
  | windowEdge _ hrun' hedge _ => rw [hrun] at hrun'; cases hrun'; omega
  | crossing _ _ _ hc' _ => rw [hc] at hc'; cases hc'
  | worn _ hrun' _ _ hr => rw [hrun] at hrun'; cases hrun'; exact hr

theorem laneResult_wear_ne_none_iff :
    (laneResult cfg cls lane).wear ≠ none ↔
      8 ≤ lane.strips.length ∧ lane.crossing = false
        ∧ ∃ a b, laneRun cfg lane = some (a, b) ∧ 0 < a ∧ b < 63 := by
  constructor
  · intro h
    obtain ⟨w, hw⟩ := Option.ne_none_iff_exists'.mp h
    obtain ⟨hn, hc, a, b, hrun, hclear, -⟩ := laneResult_wear hw
    exact ⟨hn, hc, a, b, hrun, hclear.first, Nat.lt_succ_of_le hclear.last⟩
  · rintro ⟨hn, hc, a, b, hrun, ha, hb⟩
    rw [laneResult_eq_wornResult cfg cls lane hn hc hrun ha hb]
    exact Option.some_ne_none _

end

end Sys2Proof.Machine
end

section
/-! SUPPORT. The figures of a measured face (R149 to R151): the widths, the square root and the worn depth. -/

namespace Sys2Proof.Machine

/-! ### Worn width and half width -/

/-- The worn width is within one half of w64 · 125 / 32, a half rounded up (R149). -/
theorem wornWidth_rounds (w64 : Nat) :
    64 * wornWidth w64 ≤ 2 * (w64 * 125) + 32 ∧ 2 * (w64 * 125) + 32 < 64 * (wornWidth w64 + 1) :=
  roundHalfUp_rounds (w64 * 125) (n := 32) (by decide)

/-- The half width is within one half of w64 · 125 / 64, a half rounded up (R150). -/
theorem halfWidth_rounds (w64 : Nat) :
    128 * halfWidth w64 ≤ 2 * (w64 * 125) + 64 ∧ 2 * (w64 * 125) + 64 < 128 * (halfWidth w64 + 1) :=
  roundHalfUp_rounds (w64 * 125) (n := 64) (by decide)

theorem wornWidth_range {w64 : Nat} (hlow : 64 ≤ w64) (hhigh : w64 ≤ 4096) :
    250 ≤ wornWidth w64 ∧ wornWidth w64 ≤ 16000 := by
  have := wornWidth_rounds w64
  omega

theorem halfWidth_range {w64 : Nat} (hlow : 64 ≤ w64) (hhigh : w64 ≤ 4096) :
    125 ≤ halfWidth w64 ∧ halfWidth w64 ≤ 8000 := by
  have := halfWidth_rounds w64
  omega

/-- Every reported width is the worn width of a w64 in range, and comes with the height and the flag of its half width
(R148 to R152). -/
theorem laneResult_wear_width64 {cfg : Startup} {cls : WireClass} {lane : Lane} {w : WearPart}
    (h : (laneResult cfg cls lane).wear = some w) :
    ∃ w64, 64 ≤ w64 ∧ w64 ≤ 4096 ∧ w.width = wornWidth w64
      ∧ w.height = cls.nominal - wornDepth cls.radius (halfWidth w64)
      ∧ ((laneResult cfg cls lane).widthSaturated = true ↔ cls.radius ≤ halfWidth w64) := by
  obtain ⟨hn, -, a, b, -, hclear, hr⟩ := laneResult_wear h
  obtain ⟨hlow, hhigh⟩ := width64_range hclear (by omega)
  rw [hr] at h ⊢
  obtain rfl := Option.some.inj h
  exact ⟨_, hlow, hhigh, rfl, rfl, decide_eq_true_iff⟩

/-- Settles O38: both quotients lie within one half of what they round. -/
theorem wornAndHalfWidth : Obligations.WornAndHalfWidth := by
  refine ⟨fun w64 hlow hhigh => ?_, by decide, fun cfg cls lane w h => ?_⟩
  · obtain ⟨hwidth, hwidth'⟩ := wornWidth_rounds w64
    obtain ⟨hhalf, hhalf'⟩ := halfWidth_rounds w64
    exact ⟨by omega, by omega, wornWidth_range hlow hhigh, by omega, halfWidth_range hlow hhigh, by omega⟩
  · obtain ⟨w64, hlow, hhigh, hw, -⟩ := laneResult_wear_width64 h
    exact ⟨w64, hlow, hhigh, hw, hw ▸ (wornWidth_range hlow hhigh).2⟩

/-! ### The square root and the worn depth -/

/-- From a root `r` that is not too big, and too small by less than `2 ^ b`, the last `b` bits give the floor of the
root. -/
theorem isqrtFrom_eq_sqrt (n : Nat) :
    ∀ b r, r * r ≤ n → n < (r + 2 ^ b) * (r + 2 ^ b) → isqrtFrom n b r = Nat.sqrt n := by
  intro b
  induction b with
  | zero => exact fun r hle hlt => Nat.eq_sqrt.mpr ⟨hle, hlt⟩
  | succ b ih =>
    intro r hle hlt
    have hbits : r + 2 ^ (b + 1) = r + 2 ^ b + 2 ^ b := by rw [Nat.pow_succ]; omega
    rw [hbits] at hlt
    rw [isqrtFrom]
    split
    case isTrue hbit => exact ih _ hbit hlt
    case isFalse hbit => exact ih r hle (Nat.lt_of_not_le hbit)

/-- isqrt is the floor of the square root (section 0.8): half the bits of `n`, rounded up, hold it. -/
theorem isqrt_eq_sqrt (n : Nat) : isqrt n = Nat.sqrt n := by
  refine isqrtFrom_eq_sqrt n _ 0 (Nat.zero_le n) ?_
  calc n < 2 ^ (Nat.log2 n + 1) := Nat.lt_log2_self
    _ ≤ 2 ^ ((Nat.log2 n / 2 + 1) + (Nat.log2 n / 2 + 1)) := Nat.pow_le_pow_right (by decide) (by omega)
    _ = (0 + 2 ^ (Nat.log2 n / 2 + 1)) * (0 + 2 ^ (Nat.log2 n / 2 + 1)) := by rw [Nat.zero_add, Nat.pow_add]

theorem wornDepth_of_lt {r q : Nat} (h : q < r) : wornDepth r q = r - isqrt (r * r - q * q) := if_pos h

theorem wornDepth_of_le {r q : Nat} (h : r ≤ q) : wornDepth r q = r := if_neg (Nat.not_lt.mpr h)

/-- Below the class radius the worn depth lies from 1 to r - 1 (R151). -/
theorem wornDepth_range_of_lt {r q : Nat} (hq : 0 < q) (h : q < r) : 1 ≤ wornDepth r q ∧ wornDepth r q ≤ r - 1 := by
  have hsq : q * q < r * r := Nat.mul_self_lt_mul_self h
  have hpos : 0 < q * q := Nat.mul_pos hq hq
  have hroot : 0 < Nat.sqrt (r * r - q * q) := Nat.sqrt_pos.mpr (by omega)
  have hlt : Nat.sqrt (r * r - q * q) < r := Nat.sqrt_lt.mpr (by omega)
  rw [wornDepth_of_lt h, isqrt_eq_sqrt]
  omega

/-- The worn depth lies from 1 to r (R151, R152). -/
theorem wornDepth_range {r q : Nat} (hr : 0 < r) (hq : 0 < q) : 1 ≤ wornDepth r q ∧ wornDepth r q ≤ r := by
  rcases Nat.lt_or_ge q r with h | h
  · have := wornDepth_range_of_lt hq h
    omega
  · rw [wornDepth_of_le h]
    omega

/-- A lane result without wear never has WIDTH_SATURATED or BELOW_LIMIT (R147, R151, R153). -/
theorem laneResult_of_no_wear {cfg : Startup} {cls : WireClass} {lane : Lane}
    (h : (laneResult cfg cls lane).wear = none) :
    (laneResult cfg cls lane).widthSaturated = false ∧ (laneResult cfg cls lane).belowLimit = false := by
  cases laneResult_outcome cfg cls lane with
  | fewRows _ hr | noFace _ _ hr | windowEdge _ _ _ hr | crossing _ _ _ _ hr => rw [hr]; exact ⟨rfl, rfl⟩
  | worn _ _ _ _ hr => rw [hr] at h; cases h

/-- Settles O39: the root lies from 1 to r - 1, since q² lies from 1 to r² - 1. -/
theorem wornDepthIsSegmentHeight : Obligations.WornDepthIsSegmentHeight := by
  refine ⟨fun n => ?_, fun r q hlow hhigh hq => ⟨fun h => ?_, wornDepth_of_le⟩,
    fun cfg cls lane => ⟨fun w h => ?_, fun h => ?_⟩⟩
  · rw [isqrt_eq_sqrt]
    exact ⟨Nat.sqrt_le n, Nat.lt_succ_sqrt n⟩
  · have hsq : q * q < r * r := Nat.mul_self_lt_mul_self h
    have hmax : r * r ≤ 9000 * 9000 := Nat.mul_le_mul hhigh hhigh
    exact ⟨wornDepth_of_lt h, by omega, wornDepth_range_of_lt (by omega) h⟩
  · exact laneResult_wear_width64 h
  · exact (laneResult_of_no_wear h).1

end Sys2Proof.Machine
end

section
/-! SUPPORT. The lane result against the rule of the face run (R145, R146) and the range of the quality (R154). -/

namespace Sys2Proof.Machine

/-! ### The face run -/

/-- The columns `a` to `b` are the maximal run of the columns `face` that holds the first of them in the order of
R146. -/
def IsFaceRun (face : Nat → Prop) (a b : Nat) : Prop :=
  (∀ c, a ≤ c → c ≤ b → face c) ∧ (a = 0 ∨ ¬face (a - 1)) ∧ ¬face (b + 1)
    ∧ ∃ before k after, [32, 31, 33, 30, 34, 29, 35, 28, 36] = before ++ k :: after
      ∧ (∀ c ∈ before, ¬face c) ∧ a ≤ k ∧ k ≤ b

/-- A column of the window that is bright in more than half of a lane's rows (R145). -/
def IsFaceColumn (cfg : Startup) (lane : Lane) (c : Nat) : Prop :=
  c < 64 ∧ lane.strips.length < 2 * vote cfg.tFace lane.strips c

theorem isFaceColumn_iff (cfg : Startup) (lane : Lane) (c : Nat) :
    IsFaceColumn cfg lane c ↔ c < 64 ∧ isFace cfg.tFace lane.strips c = true := by
  rw [isFace, decide_eq_true_iff]
  rfl

theorem laneRun_eq_some_iff (cfg : Startup) (lane : Lane) (a b : Nat) :
    laneRun cfg lane = some (a, b) ↔ IsFaceRun (IsFaceColumn cfg lane) a b := by
  simp only [laneRun, faceRun_iff, IsFaceRun, isFaceColumn_iff]

/-- There is no face run when none of the columns -4 to +4, from 28 to 36 here, is a face column (R146). -/
theorem laneRun_eq_none_iff (cfg : Startup) (lane : Lane) :
    laneRun cfg lane = none ↔ ∀ c, 28 ≤ c → c ≤ 36 → ¬IsFaceColumn cfg lane c := by
  have hmem (c : Nat) : c ∈ faceOrder ↔ 28 ≤ c ∧ c ≤ 36 := by
    simp [faceOrder]
    omega
  rw [laneRun, faceRun, Option.map_eq_none_iff, List.find?_eq_none]
  constructor
  · intro h c hlow hhigh hface
    exact h c ((hmem c).mpr ⟨hlow, hhigh⟩) ((isFaceColumn_iff cfg lane c).mp hface).2
  · intro h c hc hface
    obtain ⟨hlow, hhigh⟩ := (hmem c).mp hc
    exact h c hlow hhigh ((isFaceColumn_iff cfg lane c).mpr ⟨by omega, hface⟩)

/-! ### The quality -/

theorem vote_le (t : Nat) (s : List (List Nat)) (c : Nat) : vote t s c ≤ s.length := List.countP_le_length

/-- With at most 28 rows, a run of columns each bright in more than half of the rows has a quality from 132 to 255. -/
theorem qualityOf_range {v : Nat → Nat} {n a b : Nat} (hpos : 0 < n) (hn : n ≤ 28) (hab : a ≤ b) (hmax : ∀ c, v c ≤ n)
    (hface : ∀ c, a ≤ c → c ≤ b → n < 2 * v c) : 132 ≤ qualityOf v n a b ∧ qualityOf v n a b ≤ 255 := by
  let votes := (List.range (b - a + 1)).map fun k => v (a + k)
  have hlen : votes.length = b - a + 1 := by simp [votes]
  have hmem (x : Nat) (hx : x ∈ votes) : n / 2 + 1 ≤ x ∧ x ≤ n := by
    obtain ⟨k, hk, rfl⟩ := List.mem_map.mp hx
    have := List.mem_range.mp hk
    have := hface (a + k) (by omega) (by omega)
    exact ⟨by omega, hmax _⟩
  have hlow : (b - a + 1) * (n / 2 + 1) ≤ votes.sum := by
    simpa [hlen] using List.card_nsmul_le_sum votes _ fun x hx => (hmem x hx).1
  have hhigh : votes.sum ≤ (b - a + 1) * n := by
    simpa [hlen] using List.sum_le_card_nsmul votes _ fun x hx => (hmem x hx).2
  have hcells : 0 < (b - a + 1) * n := Nat.mul_pos (Nat.succ_pos _) hpos
  refine ⟨(Nat.le_div_iff_mul_le hcells).mpr ?_, Nat.div_le_of_le_mul ?_⟩
  · calc 132 * ((b - a + 1) * n) = (b - a + 1) * (132 * n) := Nat.mul_left_comm ..
      _ ≤ (b - a + 1) * (255 * (n / 2 + 1)) := Nat.mul_le_mul_left _ (by omega)
      _ = 255 * ((b - a + 1) * (n / 2 + 1)) := Nat.mul_left_comm ..
      _ ≤ 255 * votes.sum := Nat.mul_le_mul_left _ hlow
  · rw [Nat.mul_comm _ 255]
    exact Nat.mul_le_mul_left _ hhigh

/-! ### Lane results -/

/-- The quality of a reported wear lies from 132 to 255 (R154). -/
theorem laneResult_quality_range {cfg : Startup} {cls : WireClass} {lane : Lane} {w : WearPart}
    (hmax : lane.strips.length ≤ 28) (h : (laneResult cfg cls lane).wear = some w) :
    132 ≤ w.quality ∧ w.quality ≤ 255 := by
  obtain ⟨hn, -, a, b, -, hclear, hr⟩ := laneResult_wear h
  rw [hr] at h
  obtain rfl := Option.some.inj h
  exact qualityOf_range (by omega) hmax hclear.ordered (vote_le _ _)
    fun c hac hcb => of_decide_eq_true (hclear.within c hac hcb)

/-- The flags beside a reported wear: FEW_ROWS, NO_FACE and WINDOW_EDGE are clear, and BELOW_LIMIT compares the height
(R147, R153). -/
theorem laneResult_wear_flags {cfg : Startup} {cls : WireClass} {lane : Lane} {w : WearPart}
    (h : (laneResult cfg cls lane).wear = some w) :
    (laneResult cfg cls lane).fewRows = false ∧ (laneResult cfg cls lane).noFace = false
      ∧ (laneResult cfg cls lane).windowEdge = false
      ∧ ((laneResult cfg cls lane).belowLimit = true ↔ cfg.alertBelowLimit = true ∧ w.height < cls.wearLimit) := by
  obtain ⟨-, -, a, b, -, -, hr⟩ := laneResult_wear h
  rw [hr] at h ⊢
  obtain rfl := Option.some.inj h
  refine ⟨rfl, rfl, rfl, ?_⟩
  rw [Bool.and_eq_true, decide_eq_true_iff]

/-- Settles O40: the ranges follow from the measured face, and each flag from the outcomes, which exclude each
other. -/
theorem laneResultsInRange : Obligations.LaneResultsInRange := by
  intro cfg cls lane hradius _ hnominal hmax n v face isFaceRun r
  have hface (a b : Nat) : laneRun cfg lane = some (a, b) ↔ isFaceRun a b := laneRun_eq_some_iff cfg lane a b
  have hedge : r.windowEdge = true ↔ 8 ≤ n ∧ ∃ a b, isFaceRun a b ∧ (a = 0 ∨ b = 63) := by
    simp only [← hface]
    exact laneResult_windowEdge_iff cfg cls lane
  have hwear : r.wear ≠ none ↔ 8 ≤ n ∧ lane.crossing = false ∧ ∃ a b, isFaceRun a b ∧ 0 < a ∧ b < 63 := by
    simp only [← hface]
    exact laneResult_wear_ne_none_iff cfg cls lane
  have hfew : r.fewRows = true ↔ n < 8 := laneResult_fewRows_iff cfg cls lane
  have hno : r.noFace = true ↔ 8 ≤ n ∧ laneRun cfg lane = none := laneResult_noFace_iff cfg cls lane
  refine ⟨fun w hw => ?_, laneResult_of_no_wear, hfew, ?_, hedge, hwear, fun a b hn hc hrun ha hb => ?_, ?_, ?_, ?_⟩
  · obtain ⟨w64, hlow, hhigh, hwidth, hheight, hsat⟩ := laneResult_wear_width64 hw
    obtain ⟨hn, hc, -⟩ := laneResult_wear hw
    obtain ⟨hf, hnf, hwe, hbelow⟩ := laneResult_wear_flags hw
    obtain ⟨hq, -⟩ := halfWidth_range hlow hhigh
    obtain ⟨hdepth, hdepth'⟩ := wornDepth_range (r := cls.radius) (q := halfWidth w64) (by omega) (by omega)
    refine ⟨hwidth ▸ wornWidth_range hlow hhigh, by omega, laneResult_quality_range hmax hw, hn, hc, hf,
      hnf, hwe, hbelow, fun h => ?_⟩
    rw [hheight, wornDepth_of_le (hsat.mp h)]
  · rw [hno, laneRun_eq_none_iff]
    rfl
  · have hr : r = wornResult cfg cls lane a b :=
      laneResult_eq_wornResult cfg cls lane hn hc ((hface a b).mpr hrun) ha hb
    rw [hr]
    exact ⟨rfl, decide_eq_true_iff⟩
  · exact fun ⟨h, h'⟩ => absurd (hfew.mp h) (Nat.not_lt.mpr (hno.mp h').1)
  · exact fun ⟨h, h'⟩ => absurd (hfew.mp h) (Nat.not_lt.mpr (hedge.mp h').1)
  · rintro ⟨h, h'⟩
    obtain ⟨-, a, b, hrun, -⟩ := hedge.mp h'
    rw [← hface, (hno.mp h).2] at hrun
    cases hrun

end Sys2Proof.Machine
end

section
/-! SUPPORT. The stagger of one hit (R156, R161 to R163, R165), and the attitude sample it is corrected with (R158). -/

namespace Sys2Proof.Machine

/-- A value clamped to a range is the least of it and the upper end, or the lower end when that is greater. -/
theorem clampInt_eq {lo hi : Int} (h : lo ≤ hi) (x : Int) : clampInt lo hi x = max lo (min hi x) := by
  unfold clampInt
  split <;> [skip; split] <;> omega

/-! ### The car-frame lateral -/

/-- The lateral less the mount offset is the quotient of the centre, rounded half away from zero (R156). -/
theorem carLateral_rounds (mount : Int) (c16 : Nat) :
    RoundsHalfAway (carLateral mount c16 - mount) (((c16 : Int) - 16384) * 125) 8 := by
  rw [carLateral, add_sub_cancel_left]
  exact roundHalfAway_rounds _ (by decide)

/-- The centres of a row reach from -256,000 to 255,984 µm about the mount (R156). -/
theorem carLateral_range (mount : Int) {c16 : Nat} (h : c16 ≤ 32767) :
    -256000 ≤ carLateral mount c16 - mount ∧ carLateral mount c16 - mount ≤ 255984 := by
  obtain ⟨hnear, -⟩ := carLateral_rounds mount c16
  omega

/-- The centre of a whole cell has no remainder: a cell is 250 µm wide (R156). -/
theorem carLateral_of_cell (mount : Int) (i : Nat) :
    carLateral mount (16 * i) = mount + ((i : Int) - 1024) * 250 := by
  obtain ⟨hnear, -⟩ := carLateral_rounds mount (16 * i)
  omega

/-! ### The stagger -/

/-- While LOST the stagger is the car-frame lateral alone (R162). -/
theorem rawStagger_lost {cfg : Startup} {su : StaggerUnit} {c : Candidate} (h : su.state = .lost) :
    rawStagger cfg su c = carLateral cfg.mountOffset c.centre := by
  rw [rawStagger, h]

/-- While FRESH or HELD it is corrected by the lateral and the roll of the held sample (R161). -/
theorem rawStagger_corrected {cfg : Startup} {su : StaggerUnit} {c : Candidate} {a : AttitudeSample}
    (h : su.state ≠ .lost) (ha : su.sample = some a) :
    rawStagger cfg su c =
      carLateral cfg.mountOffset c.centre + a.lateral + roundHalfAway (leverArm cfg c.height * a.roll) 1000 := by
  rw [rawStagger, ha]
  cases hs : su.state with
  | lost => exact absurd hs h
  | fresh | held => rfl

/-- The part of the roll is its quotient rounded half away from zero (R161). -/
theorem rawStagger_rounds {cfg : Startup} {su : StaggerUnit} {c : Candidate} {a : AttitudeSample}
    (h : su.state ≠ .lost) (ha : su.sample = some a) :
    RoundsHalfAway (rawStagger cfg su c - carLateral cfg.mountOffset c.centre - a.lateral)
      (((c.height : Int) + cfg.refHeight) * a.roll) 1000 := by
  rw [rawStagger_corrected h ha, add_assoc, add_sub_cancel_left, add_sub_cancel_left]
  exact roundHalfAway_rounds _ (by decide)

theorem clampStagger_eq (x : Int) : clampStagger x = max (-1000000) (min 1000000 x) := clampInt_eq (by decide) x

/-- The clamp changes a stagger exactly when it is beyond a metre (R163). -/
theorem clampStagger_bne (x : Int) : (clampStagger x != x) = decide (x < -1000000 ∨ 1000000 < x) := by
  rw [Bool.eq_iff_iff, bne_iff_ne, decide_eq_true_iff, clampStagger_eq]
  omega

/-- Settles O41: the lateral and the stagger of a hit are those of `carLateral` and `rawStagger`, the latter clamped. -/
theorem hitAccumulates : Obligations.HitAccumulates := by
  intro cfg su c a hcentre
  refine ⟨carLateral cfg.mountOffset c.centre, clampStagger (rawStagger cfg su c), rawStagger cfg su c, ?_,
    clampStagger_eq _, carLateral_range _ hcentre, carLateral_rounds _ _, fun i hi => ?_, rawStagger_lost,
    fun h hsample hstate => rawStagger_rounds hstate hsample⟩
  · rw [← clampStagger_bne]
    rfl
  · rw [hi, carLateral_of_cell]

/-! ### ATTITUDE -/

/-- A telegram of an accepted length from a station that is not a head, of a kind that such a one sends, is delivered
(R173, R178). -/
theorem verdict_deliver_outside {x : RxTelegram} {kind : Kind} (own : Nat) (hkind : x.kind = some kind)
    (houtside : kind.fromHead = false) (hstation : x.station = 0) (hlen : lengthAccepted kind x.body = true) :
    verdict true own x = .deliver kind := by
  simp [verdict, hkind, houtside, hstation, hlen]

/-- ATTITUDE_TELEGRAM with an ATTITUDE of the attitude unit that has its length (R158, R173, R178). -/
theorem exec_attitudeTelegram {cfg : Startup} {x : RxTelegram} {rest : List RxTelegram} {s : State} (hq : Quiet cfg s)
    (hb : s.lc.rxBuffers = x :: rest) (hid : x.ident = 0x20) (hlen : x.body.length = 8) :
    exec .attitudeTelegram s = .next (takeAttitude cfg x (s.buffersLeft rest)) := by
  have hkind : x.kind = some .attitude := by rw [RxTelegram.kind, hid]; rfl
  have hstation : x.station = 0 := by rw [RxTelegram.station, hid]; rfl
  have haccepted : lengthAccepted .attitude x.body = true := by simp [lengthAccepted, hlen]
  exact congrArg _ (takeTelegram_delivered takeAttitude hq hb
    (verdict_deliver_outside _ hkind rfl hstation haccepted))

theorem clampSample_eq (a : AttitudeSample) : clampSample a =
    { roll := max (-50000) (min 50000 a.roll), lateral := max (-200000) (min 200000 a.lateral) } := by
  rw [clampSample, clampInt_eq (by decide), clampInt_eq (by decide)]

/-- Settles O48: the ATTITUDE is delivered, and its clamped sample is held. -/
theorem attitudeTelegramIsHeld : Obligations.AttitudeTelegramIsHeld := by
  intro cfg x rest s hq hb hid hlen
  rw [exec_attitudeTelegram hq hb hid hlen, takeAttitude, clampSample_eq]
  rfl

end Sys2Proof.Machine
end

section
/-! SUPPORT. Every command answers a next state and leaves the commands that wait alone. -/

namespace Sys2Proof.Machine

/-! ### What the actions leave waiting -/

theorem inOperating_pending {act : Startup → State → State} (h : ∀ cfg s, (act cfg s).pending = s.pending) (s : State) :
    (inOperating act s).pending = s.pending := by
  unfold inOperating
  split
  · exact h _ s
  · rfl

@[simp] theorem onLine_pending (act : LinkController → LinkController) (s : State) :
    (onLine act s).pending = s.pending := by
  unfold onLine
  split <;> rfl

theorem takeTelegram_pending {k : Kind} {act : Startup → RxTelegram → State → State}
    (h : ∀ cfg t s, (act cfg t s).pending = s.pending) (s : State) : (takeTelegram k act s).pending = s.pending := by
  unfold takeTelegram
  split
  · split
    · exact h _ _ (freeBuffer s)
    · rfl
  · rfl

@[simp] theorem freeBuffer_pending (s : State) : (freeBuffer s).pending = s.pending := rfl

@[simp] theorem tickOperating_pending (dir : Direction) (cfg : Startup) (s : State) :
    (tickOperating dir cfg s).pending = s.pending := by
  unfold tickOperating reversal
  dsimp only
  split <;> simp

@[simp] theorem endLoading_pending (block : List Byte) (s : State) : (endLoading block s).pending = s.pending := by
  unfold endLoading
  split <;> simp [acceptBlock]

@[simp] theorem finishDarkRow_pending (cfg : Startup) (row : RowInProcess) (s : State) :
    (finishDarkRow cfg row s).pending = s.pending := by simp [finishDarkRow]

@[simp] theorem associateRow_pending (cfg : Startup) (row : RowInProcess) (s : State) :
    (associateRow cfg row s).pending = s.pending := by simp [associateRow]

@[simp] theorem beginExposure_pending (cfg : Startup) (c : SlotCycle) (s : State) :
    (beginExposure cfg c s).pending = s.pending := by simp [beginExposure]

@[simp] theorem loseTransmission_pending (s : State) : (loseTransmission s).pending = s.pending := by
  simp [loseTransmission]

@[simp] theorem completeTransmission_pending (s : State) : (completeTransmission s).pending = s.pending := by
  simp [completeTransmission]

/-! ### What the telegrams leave waiting -/

theorem judgeRun_pending (cfg : Startup) (t : RxTelegram) (s : State) : (judgeRun cfg t s).pending = s.pending := by
  unfold judgeRun takeRun
  dsimp only
  split
  · split
    · split
      · split <;> simp
      · rfl
    · rfl
  · rfl

theorem takeAttitude_pending (cfg : Startup) (t : RxTelegram) (s : State) :
    (takeAttitude cfg t s).pending = s.pending := rfl

theorem writeNeighbour_pending (cfg : Startup) (t : RxTelegram) (s : State) :
    (writeNeighbour cfg t s).pending = s.pending := by simp [writeNeighbour]

theorem adoptInPlace_pending (i : Nat) (e : Entry) (o : Origin) (rate : Int) (s : State) :
    (adoptInPlace i e o rate s).pending = s.pending := by
  unfold adoptInPlace
  dsimp only
  split
  · split <;> rfl
  · split <;> rfl
  all_goals simp

theorem adoptNew_pending (h : Handover) (o : Origin) (s : State) : (adoptNew h o s).pending = s.pending := by
  unfold adoptNew
  split
  · rename_i i u hu
    simp [makeRoom_pending _ _ _ _ hu]
  · rfl

theorem takeHandover_pending (cfg : Startup) (t : RxTelegram) (s : State) :
    (takeHandover cfg t s).pending = s.pending := by
  unfold takeHandover
  dsimp only
  split
  · split
    · exact adoptInPlace_pending _ _ _ _ s
    · exact adoptNew_pending _ _ s
  · rfl

theorem checkDuplicate_pending (cfg : Startup) (t : RxTelegram) (s : State) :
    (checkDuplicate cfg t s).pending = s.pending := by
  unfold checkDuplicate
  dsimp only
  split
  · split
    · split
      · simp [yieldDuplicate]
      · rfl
    · rfl
  · rfl

theorem takeSighting_pending (cfg : Startup) (t : RxTelegram) (s : State) :
    (takeSighting cfg t s).pending = s.pending := by
  unfold takeSighting
  split
  · split
    · split
      · simp
      · rfl
    · exact checkDuplicate_pending cfg t s
  · exact checkDuplicate_pending cfg t s

/-! ### The commands -/

/-- A next state is answered, in which the commands wait that wait in `s`. -/
def Completes (s : State) (o : Host.Outcome State Fault Refusal) : Prop := ∃ t, o = .next t ∧ t.pending = s.pending

theorem Completes.next {s t : State} (h : t.pending = s.pending) : Completes s (.next t) := ⟨t, rfl, h⟩

/-- An action of an OPERATING part, on what has been caught up. -/
theorem Completes.caughtUp {act : Startup → State → State} (h : ∀ cfg s, (act cfg s).pending = s.pending) (s : State) :
    Completes s (.next (inOperating act (catchUp s))) :=
  .next ((inOperating_pending h _).trans (catchUp_pending s))

/-- An action of a due event, on the trigger that has been taken. -/
theorem Completes.triggered {act : Startup → State → State} (h : ∀ cfg s, (act cfg s).pending = s.pending)
    (s : State) : Completes s (.next (inOperating act (catchTrigger s))) :=
  .next ((inOperating_pending h _).trans (catchTrigger_pending s))

/-- An event on the line, on what has been caught up. -/
theorem Completes.onLine (act : LinkController → LinkController) (s : State) :
    Completes s (.next (onLine act (catchUp s))) := .next (by simp)

/-- A telegram taken, on what has been caught up. -/
theorem Completes.taken {k : Kind} {act : Startup → RxTelegram → State → State}
    (h : ∀ cfg t s, (act cfg t s).pending = s.pending) (s : State) :
    Completes s (.next (takeTelegram k act (catchUp s))) :=
  .next ((takeTelegram_pending h _).trans (catchUp_pending s))

theorem loading_completes {c : Instr} (s : State)
    (hc : (∃ straps, c = .resetEnd straps) ∨ c = .configReadStart ∨ (∃ levels, c = .configReadDone levels)
      ∨ c = .loadingEnd ∨ c = .headstateTimer) : Completes s (exec c s) := by
  rcases hc with ⟨straps, rfl⟩ | rfl | ⟨levels, rfl⟩ | rfl | rfl
  · simp only [exec, execResetEnd]
    split <;> exact .next (by simp)
  · simp only [exec, execConfigReadStart]
    split <;> exact .next (by simp)
  · simp only [exec, execConfigReadDone]
    split <;> exact .next (by simp)
  · simp only [exec, execLoadingEnd]
    split <;> exact .next (by simp)
  · simp only [exec, execHeadstateTimer]
    split <;> exact .next (by simp)

theorem travel_completes {c : Instr} (s : State)
    (hc : (∃ dir, c = .tick dir) ∨ c = .rateWindowEnd ∨ c = .pole) : Completes s (exec c s) := by
  rcases hc with ⟨dir, rfl⟩ | rfl | rfl
  · simp only [exec, execTick]
    split <;> exact .next (by simp)
  · simp only [exec, execRateWindowEnd]
    split <;> exact .next (by simp)
  · refine .caughtUp (fun cfg s => ?_) s
    dsimp only
    split <;> simp

theorem slotCycle_completes {c : Instr} (s : State)
    (hc : c = .slotCycleEnd ∨ c = .exposeRise ∨ c = .exposeFall) : Completes s (exec c s) := by
  rcases hc with rfl | rfl | rfl <;> refine .caughtUp (fun cfg s => ?_) s <;> split
  · split <;> rfl
  · rfl
  · split <;> simp
  · rfl
  · split <;> rfl
  · rfl

theorem rows_completes {c : Instr} (s : State)
    (hc : c = .darkRowDone ∨ c = .rowAssociation ∨ c = .litRowEnd ∨ c = .wearComplete) : Completes s (exec c s) := by
  rcases hc with rfl | rfl | rfl | rfl <;> refine .caughtUp (fun cfg s => ?_) s <;> split
  · split <;> simp
  · rfl
  · split <;> simp
  · rfl
  · split <;> simp
  · rfl
  · simp
  · rfl

theorem sensor_completes {c : Instr} (s : State) (hc : c = .srfRise ∨ ∃ nibbles, c = .rowArrival nibbles) :
    Completes s (exec c s) := by
  rcases hc with rfl | ⟨nibbles, rfl⟩
  · simp only [exec, execSrfRise]
    split <;> exact .next (by simp)
  · simp only [exec, execRowArrival]
    split
    · refine .next ((inOperating_pending (fun cfg s => ?_) _).trans (catchUp_pending s))
      split <;> simp
    · exact .next (by simp)

theorem transmission_completes {c : Instr} (s : State)
    (hc : c = .transmitError ∨ c = .transmitComplete ∨ c = .telegramDiscard) : Completes s (exec c s) := by
  rcases hc with rfl | rfl | rfl
  · refine .next ?_
    split <;> simp
  · refine .next ?_
    split <;> simp
  · simp only [exec, execTelegramDiscard]
    split <;> exact .next (by simp)

/-- Settles O2: each command's action leaves the waiting commands alone. -/
theorem everyCommandCompletes : Obligations.EveryCommandCompletes := by
  intro c s
  show Completes s (exec c s)
  cases c with
  | reset => exact .next rfl
  | resetEnd _ | configReadStart | configReadDone _ | loadingEnd | headstateTimer =>
    exact loading_completes s (by simp)
  | tick _ | rateWindowEnd | pole => exact travel_completes s (by simp)
  | slotCycleEnd | exposeRise | exposeFall => exact slotCycle_completes s (by simp)
  | srfRise | rowArrival _ => exact sensor_completes s (by simp)
  | darkRowDone | rowAssociation | litRowEnd | wearComplete => exact rows_completes s (by simp)
  | transmitError | transmitComplete | telegramDiscard => exact transmission_completes s (by simp)
  | frameTrigger => exact .next (catchTrigger_pending s)
  | yieldReclaim i => exact .triggered (fun cfg s => takeReclaim_pending s cfg i) s
  | neighbourAbsent n => exact .triggered (fun cfg s => takeAbsent_pending s cfg n) s
  | notTakingExpire n => exact .triggered (fun cfg s => takeExpire_pending s cfg n) s
  | settleEnd => exact .triggered (fun _ => takeSettleEnd_pending) s
  | attitudeHeld => exact .triggered (fun _ => takeHeld_pending) s
  | attitudeLost => exact .triggered (fun _ => takeLost_pending) s
  | runTelegram => exact .taken judgeRun_pending s
  | attitudeTelegram => exact .taken takeAttitude_pending s
  | headstateTelegram => exact .taken writeNeighbour_pending s
  | adoption => exact .taken takeHandover_pending s
  | sightingTelegram => exact .taken takeSighting_pending s
  | telegramReceived _ | transmitStart | arbitrationLost | arbitrationWon | lineIdle | startBit => exact .onLine _ s

end Sys2Proof.Machine
end

section
/-! SUPPORT. A sensor row nibble by nibble, as it is sent and as it is read (R191). -/

namespace Sys2Proof.Machine

/-- A byte is its high nibble, then its low one. -/
theorem byte_of_nibbles (b : Byte) : b.extractLsb' 4 4 ++ b.extractLsb' 0 4 = b := by
  refine BitVec.eq_of_getLsbD_eq fun i hi => ?_
  rw [BitVec.getLsbD_append, BitVec.getLsbD_extractLsb', BitVec.getLsbD_extractLsb']
  by_cases h : i < 4
  · simp [h]
  · simp [h, show i - 4 < 4 by omega, show 4 + (i - 4) = i by omega]

/-- A 12-bit number is read from the three nibbles it is sent as. -/
theorem sampleOf_sampleNibbles (x : Sample) :
    sampleOf (x.extractLsb' 8 4) (x.extractLsb' 4 4) (x.extractLsb' 0 4) = x := by
  unfold sampleOf
  refine BitVec.eq_of_getLsbD_eq fun i hi => ?_
  rw [BitVec.getLsbD_append, BitVec.getLsbD_append, BitVec.getLsbD_extractLsb', BitVec.getLsbD_extractLsb',
    BitVec.getLsbD_extractLsb']
  by_cases h0 : i < 4
  · simp [h0]
  · by_cases h1 : i - 4 < 4
    · simp [h0, h1, show 4 + (i - 4) = i by omega]
    · simp [h0, h1, show i - 4 - 4 < 4 by omega, show 8 + (i - 4 - 4) = i by omega]

/-- The six nibbles of a cell: intensity, then height code. -/
def cellNibbles (c : RowCell) : List Nibble := sampleNibbles c.intensity ++ sampleNibbles c.height

theorem nibbles_eq (row : SensorRow) :
    row.nibbles = row.tag.extractLsb' 4 4 :: row.tag.extractLsb' 0 4 :: row.kind :: row.cells.flatMap cellNibbles := rfl

theorem cellsOf_flatMap (cells : List RowCell) : cellsOf (cells.flatMap cellNibbles) = cells := by
  induction cells with
  | nil => rfl
  | cons c cells ih =>
    show RowCell.mk (sampleOf _ _ _) (sampleOf _ _ _) :: cellsOf (cells.flatMap cellNibbles) = c :: cells
    rw [sampleOf_sampleNibbles, sampleOf_sampleNibbles, ih]

theorem length_flatMap_cellNibbles (cells : List RowCell) : (cells.flatMap cellNibbles).length = 6 * cells.length := by
  induction cells with
  | nil => rfl
  | cons c cells ih =>
    rw [List.flatMap_cons, List.length_append, ih, List.length_cons]
    show 6 + 6 * cells.length = _
    omega

/-- A row of the right length is read whole. -/
theorem sensorRowOf_cons {hi lo kind : Nibble} {rest : List Nibble} (h : rest.length = 6 * Config.cells) :
    sensorRowOf (hi :: lo :: kind :: rest) = some ⟨hi ++ lo, kind, cellsOf rest⟩ :=
  if_pos (show rest.length + 3 = 3 + 6 * Config.cells by omega)

/-- Settles O25: the tag, and the cells one by one, are read as they were sent. -/
theorem sensorRowRoundTrip : Obligations.SensorRowRoundTrip := by
  intro row hcells
  have hlength : (row.cells.flatMap cellNibbles).length = 6 * Config.cells := by
    rw [length_flatMap_cellNibbles, hcells]
  rw [nibbles_eq, sensorRowOf_cons hlength, byte_of_nibbles, cellsOf_flatMap]

end Sys2Proof.Machine
end

section
/-! SUPPORT. The telegrams that dispatch discards, check by check (R178). -/

namespace Sys2Proof.Machine

/-! ### The checks -/

section
variable {x : RxTelegram} {kind : Kind} {own : Nat} {operating : Bool}

/-- A code that names no kind (R173). -/
theorem kindOfCode_none {code : Nat} (h : code = 0 ∨ 6 ≤ code) : kindOfCode code = none := by
  unfold kindOfCode
  split <;> [omega; omega; omega; omega; omega; rfl]

theorem verdict_unknown (hkind : x.kind = none) : verdict operating own x = .discard none := by
  rw [verdict, hkind]

theorem verdict_length (hkind : x.kind = some kind) (hlen : lengthAccepted kind x.body = false) :
    verdict operating own x = .discard (some .linkError) := by
  simp [verdict, hkind, hlen]

theorem verdict_duplicate (hkind : x.kind = some kind) (hhead : kind.fromHead = true)
    (hlen : lengthAccepted kind x.body = true) (hown : x.station = own) :
    verdict operating own x = .discard (some .duplicateStation) := by
  simp [verdict, hkind, hlen, hhead, hown]

theorem verdict_noHead (hkind : x.kind = some kind) (hhead : kind.fromHead = true)
    (hlen : lengthAccepted kind x.body = true) (hown : x.station ≠ own) (hstation : x.station = 0 ∨ 9 ≤ x.station) :
    verdict operating own x = .discard none := by
  have h8 : x.station = 0 ∨ 8 < x.station := by omega
  simp [verdict, hkind, hlen, hhead, hown, h8]

theorem verdict_notOutside (hkind : x.kind = some kind) (hhead : kind.fromHead = false)
    (hlen : lengthAccepted kind x.body = true) (hstation : x.station ≠ 0) :
    verdict operating own x = .discard none := by
  simp [verdict, hkind, hlen, hhead, hstation]

/-- A part that is not OPERATING takes nothing; a telegram of its own number alone raises a flag. -/
theorem verdict_notOperating (hkind : x.kind = some kind) (hlen : lengthAccepted kind x.body = true)
    (hown : kind.fromHead = true → x.station ≠ own) : verdict false own x = .discard none := by
  cases hhead : kind.fromHead with
  | false => simp [verdict, hkind, hlen, hhead]
  | true => simp [verdict, hkind, hlen, hhead, hown hhead]

end

/-! ### What each kind accepts -/

section
variable {x : RxTelegram} {code : Nat}

theorem exists_kind_of_refusedLength (hcode : x.ident.toNat / 16 = code)
    (h : code = 1 ∧ x.body.length ≠ 4 ∨ code = 2 ∧ x.body.length ≠ 8 ∨ code = 3 ∧ x.body.length ≠ 11
      ∨ code = 5 ∧ x.body.length ≠ 23 ∧ x.body.length ≠ 32 ∨ code = 4 ∧ lengthAccepted .sighting x.body = false) :
    ∃ k, x.kind = some k ∧ lengthAccepted k x.body = false := by
  rw [RxTelegram.kind, hcode]
  rcases h with ⟨rfl, h⟩ | ⟨rfl, h⟩ | ⟨rfl, h⟩ | ⟨rfl, h, h'⟩ | ⟨rfl, h⟩
  · exact ⟨.run, rfl, by simpa [lengthAccepted] using h⟩
  · exact ⟨.attitude, rfl, by simpa [lengthAccepted] using h⟩
  · exact ⟨.handover, rfl, by simpa [lengthAccepted] using h⟩
  · exact ⟨.headstate, rfl, by simp [lengthAccepted, h, h']⟩
  · exact ⟨.sighting, rfl, h⟩

theorem exists_kind_of_head (hcode : x.ident.toNat / 16 = code)
    (h : code = 3 ∧ x.body.length = 11 ∨ code = 4 ∧ lengthAccepted .sighting x.body = true
      ∨ code = 5 ∧ (x.body.length = 23 ∨ x.body.length = 32)) :
    ∃ k, x.kind = some k ∧ k.fromHead = true ∧ lengthAccepted k x.body = true := by
  rw [RxTelegram.kind, hcode]
  rcases h with ⟨rfl, h⟩ | ⟨rfl, h⟩ | ⟨rfl, h⟩
  · exact ⟨.handover, rfl, rfl, by simpa [lengthAccepted] using h⟩
  · exact ⟨.sighting, rfl, rfl, h⟩
  · exact ⟨.headstate, rfl, rfl, by simpa [lengthAccepted] using h⟩

theorem exists_kind_of_outside (hcode : x.ident.toNat / 16 = code)
    (h : code = 1 ∧ x.body.length = 4 ∨ code = 2 ∧ x.body.length = 8) :
    ∃ k, x.kind = some k ∧ k.fromHead = false ∧ lengthAccepted k x.body = true := by
  rw [RxTelegram.kind, hcode]
  rcases h with ⟨rfl, h⟩ | ⟨rfl, h⟩
  · exact ⟨.run, rfl, rfl, by simpa [lengthAccepted] using h⟩
  · exact ⟨.attitude, rfl, rfl, by simpa [lengthAccepted] using h⟩

end

/-! ### TELEGRAM_DISCARD -/

/-- TELEGRAM_DISCARD with a telegram that the checks discard: its buffer becomes FREE and the flag of the check that
failed is raised (R177, R178). -/
theorem exec_telegramDiscard {x : RxTelegram} {rest : List RxTelegram} {s : State} (hcatch : catchUp s = s)
    (hb : s.lc.rxBuffers = x :: rest) {flag : Option StickyFlag}
    (hv : verdict s.src.part.isOperating s.src.station x = .discard flag) :
    exec .telegramDiscard s =
      .next { s with lc := { s.lc with
        rxBuffers := rest, sticky := s.lc.sticky ||| (flag.map StickyFlag.mask).getD 0 } } := by
  have hd : dispatched s = some (x, .discard flag) := by
    rw [dispatched, hb]
    exact congrArg (fun v => some (x, v)) hv
  have hfree : freeBuffer s = s.buffersLeft rest := by
    rw [freeBuffer, hb]
    rfl
  show execTelegramDiscard s = _
  unfold execTelegramDiscard
  simp only [hcatch, hd, hfree]
  cases flag with
  | none =>
    have hno : s.lc.sticky ||| (Option.map StickyFlag.mask none).getD 0 = s.lc.sticky := BitVec.or_zero
    rw [hno]
    rfl
  | some f => rfl

/-- Settles O49: the verdict on the telegram, check by check. -/
theorem discardedTelegrams : Obligations.DiscardedTelegrams := by
  intro x rest s hb hcatch
  dsimp only
  refine ⟨fun h => ?_, fun h => ?_, fun h => ?_, fun h => ?_⟩
  · exact exec_telegramDiscard hcatch hb (verdict_unknown (kindOfCode_none h))
  · obtain ⟨k, hkind, hlen⟩ := exists_kind_of_refusedLength rfl h
    exact exec_telegramDiscard hcatch hb (verdict_length hkind hlen)
  · obtain ⟨k, hkind, hhead, hlen⟩ := exists_kind_of_head rfl h
    refine ⟨fun hown => ?_, fun hown hstation => ?_, fun hown hpart => ?_⟩
    · exact exec_telegramDiscard hcatch hb (verdict_duplicate hkind hhead hlen hown)
    · exact exec_telegramDiscard hcatch hb (verdict_noHead hkind hhead hlen hown hstation)
    · exact exec_telegramDiscard hcatch hb (hpart ▸ verdict_notOperating hkind hlen fun _ => hown)
  · obtain ⟨k, hkind, hhead, hlen⟩ := exists_kind_of_outside rfl h
    rintro (hstation | hpart)
    · exact exec_telegramDiscard hcatch hb (verdict_notOutside hkind hhead hlen hstation)
    · exact exec_telegramDiscard hcatch hb (hpart ▸ verdict_notOperating hkind hlen fun h => by rw [hhead] at h; cases h)

end Sys2Proof.Machine
end

section
/-! SUPPORT. Queuing a HEADSTATE and a HANDOVER, outcome by outcome, and the HEADSTATE of a trigger (R180 to R184). -/

namespace Sys2Proof.Machine

/-! ### Which telegram is the oldest of its sort -/

theorem isSighting_iff (x : Telegram) : x.isSighting = true ↔ ∃ g, x = .sighting g := by
  cases x <;> simp [Telegram.isSighting]

theorem isHeadstate_iff (x : Telegram) : x.isHeadstate = true ↔ ∃ g, x = .headstate g := by
  cases x <;> simp [Telegram.isHeadstate]

section
variable {l : LinkController} {i : Nat}

theorem oldest_sighting (hi : ∃ g, l.txQueue[i]? = some (.sighting g)) (hsent : ¬(l.tx = .sending ∧ i = 0))
    (hbefore : ∀ j < i, ∀ g, l.txQueue[j]? = some (.sighting g) → l.tx = .sending ∧ j = 0) :
    l.oldest Telegram.isSighting = some i := by
  obtain ⟨g, hg⟩ := hi
  refine oldest_eq hg rfl hsent fun j hj y hy hsort => ?_
  obtain ⟨g', rfl⟩ := (isSighting_iff y).mp hsort
  exact hbefore j hj g' hy

theorem oldest_sighting_none (h : ∀ i g, l.txQueue[i]? = some (.sighting g) → l.tx = .sending ∧ i = 0) :
    l.oldest Telegram.isSighting = none := by
  refine oldest_eq_none fun j y hy hsort => ?_
  obtain ⟨g, rfl⟩ := (isSighting_iff y).mp hsort
  exact h j g hy

theorem oldest_headstate_none (h : ∀ i g, l.txQueue[i]? = some (.headstate g) → l.tx = .sending ∧ i = 0) :
    l.oldest Telegram.isHeadstate = none := by
  refine oldest_eq_none fun j y hy hsort => ?_
  obtain ⟨g, rfl⟩ := (isHeadstate_iff y).mp hsort
  exact h j g hy

/-- The only HEADSTATE of a queue, not in transmission, is the oldest. -/
theorem oldest_headstate {g : Headstate} (hone : l.headstates = 1) (hi : l.txQueue[i]? = some (.headstate g))
    (hsent : ¬(l.tx = .sending ∧ i = 0)) : l.oldest Telegram.isHeadstate = some i := by
  refine oldest_eq hi rfl hsent fun j hj y hy hsort => ?_
  obtain ⟨g', rfl⟩ := (isHeadstate_iff y).mp hsort
  exact absurd (one_headstate hone hi hy) (Nat.ne_of_lt hj)

theorem no_headstate_of_count (h : l.headstates = 0) (j : Nat) (g : Headstate) :
    l.txQueue[j]? ≠ some (.headstate g) := fun hj =>
  List.countP_eq_zero.mp h _ (List.mem_of_getElem? hj) rfl

theorem oldest_headstate_none_of_count (h : l.headstates = 0) : l.oldest Telegram.isHeadstate = none :=
  oldest_headstate_none fun j g hj => absurd hj (no_headstate_of_count h j g)

/-- A HEADSTATE in transmission is the first of the queue. -/
theorem sendsHeadstate_iff :
    l.sendsHeadstate = true ↔ l.tx = .sending ∧ ∃ g, l.txQueue[0]? = some (.headstate g) := by
  rw [LinkController.sendsHeadstate, Bool.and_eq_true, beq_iff_eq, List.head?_eq_getElem?]
  refine and_congr_right fun _ => ?_
  cases l.txQueue[0]? with
  | none => simp
  | some x => simp [isHeadstate_iff]

theorem not_sendsHeadstate_of_count (h : l.headstates = 0) : ¬l.sendsHeadstate = true := fun hs => by
  obtain ⟨-, g, hg⟩ := sendsHeadstate_iff.mp hs
  exact no_headstate_of_count h 0 g hg

theorem not_sendsHeadstate_of_waiting {g : Headstate} (hone : l.headstates = 1)
    (hi : l.txQueue[i]? = some (.headstate g)) (hsent : ¬(l.tx = .sending ∧ i = 0)) :
    ¬l.sendsHeadstate = true := fun hs => by
  obtain ⟨htx, g', hg'⟩ := sendsHeadstate_iff.mp hs
  exact hsent ⟨htx, (one_headstate hone hi hg').symm⟩

/-- A telegram that replaces another in its place (R174, R181). -/
theorem replaceAt_eq {y : Telegram} (hi : l.txQueue[i]? = some y) (x : Telegram) :
    l.replaceAt i x =
      { l with
        txQueue := l.txQueue.set i x
        tx := if i = 0 then .contending false else l.tx, lineOut := if i = 0 then [] else l.lineOut } := by
  have hne : l.txQueue.set i x ≠ [] := fun h => by
    rw [List.set_eq_nil_iff] at h
    rw [h] at hi
    cases hi
  unfold LinkController.replaceAt LinkController.stopDriving
  by_cases h : i = 0
  · subst h
    simp [hne]
  · simp [h]

end

/-! ### Queuing a HEADSTATE -/

section
variable {s : State} {i : Nat}

/-- A HEADSTATE joins the tail (R181). -/
theorem queueHeadstate_joins (hno : s.lc.oldest Telegram.isHeadstate = none) (hroom : s.lc.txQueue.length < 12) :
    queueHeadstate s =
      { s with
        du := { s.du with mark := none }
        lc := { s.lc with
          txQueue := s.lc.txQueue ++ [.headstate (headstateOf s)]
          tx := if s.lc.tx = .idle then .contending false else s.lc.tx, sticky := 0 } } := by
  unfold queueHeadstate
  simp only [hno]
  rw [if_pos hroom, join_eq]
  rfl

/-- At a full queue it displaces the oldest SIGHTING, and carries REPORT_LOST (R181). -/
theorem queueHeadstate_displaces (hno : s.lc.oldest Telegram.isHeadstate = none) (hfull : 12 ≤ s.lc.txQueue.length)
    (hi : s.lc.oldest Telegram.isSighting = some i) :
    queueHeadstate s =
      { s with
        du := { s.du with mark := none }
        lc := { s.lc with
          txQueue := s.lc.txQueue.eraseIdx i
            ++ [.headstate { headstateOf s with sticky := (headstateOf s).sticky ||| StickyFlag.reportLost.mask }]
          tx := if i = 0 then .contending false else s.lc.tx, lineOut := if i = 0 then [] else s.lc.lineOut
          sticky := 0 } } := by
  unfold queueHeadstate
  simp only [hno, hi]
  rw [if_neg (Nat.not_lt.mpr hfull), displace_eq]
  rfl

/-- With no SIGHTING to displace it is not queued (R181). -/
theorem queueHeadstate_lost (hno : s.lc.oldest Telegram.isHeadstate = none) (hfull : 12 ≤ s.lc.txQueue.length)
    (hnone : s.lc.oldest Telegram.isSighting = none) : queueHeadstate s = s.raise .reportLost := by
  unfold queueHeadstate
  simp only [hno, hnone]
  exact if_neg (Nat.not_lt.mpr hfull)

/-- It replaces another that is not in transmission (R181). -/
theorem queueHeadstate_replaces {g : Headstate} (hi : s.lc.txQueue[i]? = some (.headstate g))
    (hold : s.lc.oldest Telegram.isHeadstate = some i) :
    queueHeadstate s =
      { s with
        du := { s.du with mark := none }
        lc := { s.lc with
          txQueue := s.lc.txQueue.set i (.headstate (mergeHeadstate (headstateOf s) g))
          tx := if i = 0 then .contending false else s.lc.tx, lineOut := if i = 0 then [] else s.lc.lineOut
          sticky := 0 } } := by
  have hg : (headstateAt s.lc i).getD (headstateOf s) = g := by
    rw [headstateAt, hi]
    rfl
  have ht : (takenByHeadstate s).lc.txQueue[i]? = some (.headstate g) := hi
  unfold queueHeadstate
  simp only [hold]
  rw [hg, replaceAt_eq ht]
  rfl

end

/-! ### Queuing a HANDOVER at a full queue -/

section
variable {s : State} {i : Nat} (h : Handover)

theorem queueHandover_joins (hroom : s.lc.txQueue.length < 12) :
    queueHandover h s = s.setLc (s.lc.join (.handover h)) := if_pos hroom

theorem queueHandover_full (hfull : 12 ≤ s.lc.txQueue.length) (hi : s.lc.oldest Telegram.isSighting = some i) :
    queueHandover h s = (s.setLc (s.lc.displace i (.handover h))).raise .reportLost := by
  unfold queueHandover
  rw [if_neg (Nat.not_lt.mpr hfull), hi]

theorem queueHandover_returns {g : Headstate} (hfull : 12 ≤ s.lc.txQueue.length)
    (hnone : s.lc.oldest Telegram.isSighting = none) (hi : s.lc.txQueue[i]? = some (.headstate g))
    (hold : s.lc.oldest Telegram.isHeadstate = some i) :
    queueHandover h s =
      ((returnHeadstate g s).setLc ((returnHeadstate g s).lc.displace i (.handover h))).raise .reportLost := by
  have hreturn : returnAt i s = returnHeadstate g s := by rw [returnAt, hi]
  unfold queueHandover
  rw [if_neg (Nat.not_lt.mpr hfull), hnone, hold, ← hreturn]

theorem queueHandover_lost (hfull : 12 ≤ s.lc.txQueue.length) (hnone : s.lc.oldest Telegram.isSighting = none)
    (hno : s.lc.oldest Telegram.isHeadstate = none) : queueHandover h s = s.raise .reportLost := by
  unfold queueHandover
  rw [if_neg (Nat.not_lt.mpr hfull), hnone, hno]

end

/-! ### The HEADSTATE of a trigger -/

section
variable {cfg : Startup} {s : State}

/-- The flags that a trigger's HEADSTATE finds held: FRAME_SKIPPED is raised where a cycle is in progress (R12). -/
def State.triggerFlags (s : State) : Word16 :=
  if s.ec.cycle = none then s.lc.sticky else s.lc.sticky ||| StickyFlag.frameSkipped.mask

/-- The state in which a trigger's HEADSTATE falls due, with what the trigger made of the slot cycle. -/
def reportingState (cfg : Startup) (c : Option SlotCycle) (s : State) : State :=
  { triggerAgeing cfg s with
    ec := { triggerSlot s.ec with cycle := c }, lc := { s.lc with sticky := s.triggerFlags } }

/-- The Strip Store's part of a trigger within a group, where no block is to open. -/
theorem triggerBlocks_between (h0 : ¬s.du.frameIndex.toNat % 32 = 0)
    (hopen : s.src.runState = .run → s.ss.openBlock ≠ none) : triggerBlocks cfg s = s := by
  have hu : afterGroupEnd cfg s = s := if_neg h0
  rw [triggerBlocks_eq]
  dsimp only
  rw [hu, if_neg h0]
  split
  · rename_i hr
    exact if_neg (hopen hr)
  · rfl

/-- Where neither an opening nor a natural end falls, the work of a trigger after its ageing is to start a cycle or to
skip a frame that no block counts (R8, R12). -/
theorem triggerExposure_between (h31 : (s.du.frameIndex + 1).toNat % 32 = 31)
    (hopen : s.src.runState = .run → s.ss.openBlock ≠ none) (hskip : s.ec.cycle ≠ none → s.ss.openBlock = none) :
    ∃ c, triggerExposure cfg (triggerBlocks cfg (triggerAgeing cfg s)) = reportingState cfg c s := by
  have hidle : triggerBlocks cfg (triggerAgeing cfg s) = triggerAgeing cfg s := by
    refine triggerBlocks_between ?_ hopen
    show ¬(s.du.frameIndex + 1).toNat % 32 = 0
    omega
  rw [hidle]
  cases hc : s.ec.cycle with
  | none =>
    refine ⟨some (newCycle cfg (s.du.frameIndex + 1) s.ec.announced), ?_⟩
    have hc' : (triggerAgeing cfg s).ec.cycle = none := hc
    rw [triggerExposure, hc', reportingState, State.triggerFlags, if_pos hc]
    rfl
  | some c =>
    refine ⟨some c, ?_⟩
    have hnone : s.ss.openBlock = none := hskip (by simp [hc])
    have hdark : isDark (s.du.frameIndex + 1) = true := (isDark_iff _).mpr (by omega)
    have hcount : frameSkipped cfg (s.du.frameIndex + 1) (triggerAgeing cfg s) = triggerAgeing cfg s := by
      have hnone' : (triggerAgeing cfg s).ss.openBlock = none := hnone
      rw [frameSkipped, if_pos hdark, naturalEnd, hnone']
    have hskips := triggerExposure_skips cfg (s := triggerAgeing cfg s) (c := c) hc
    rw [hskips, show (triggerAgeing cfg s).du.frameIndex = s.du.frameIndex + 1 from rfl, hcount, reportingState,
      State.triggerFlags, if_neg (by simp [hc]), ← hc]
    rfl

/-- What the HEADSTATE of a trigger carries (R16, R32, R184, R185). -/
def triggerReport (cfg : Startup) (s : State) : Headstate :=
  { mountOffset := cfg.mountOffset, slot := s.ec.pendingSlot.getD s.ec.currentSlot
    settling := decide (s.ec.state = .settling), keep := s.keep, run := s.src.runNumber, runState := s.src.runState
    blockSeq := s.ss.blockSeq, frameIndex := s.du.frameIndex + 1, distance := s.du.distance
    presence := presenceMap (s.nl.map Neighbour.aged) s.src.station, attitude := s.su.state, entries := s.tt.count
    sticky := s.triggerFlags, mark := s.du.mark }

theorem count_map_entries (t : TrackTable) (g : Entry → Entry) :
    ({ t with entries := t.entries.map fun p => p.map g } : TrackTable).count = t.count := by
  simp only [TrackTable.count, List.countP_map]
  exact List.countP_congr fun p _ => by cases p <;> rfl

theorem headstateOf_operating (hp : s.src.part = .operating cfg) :
    headstateOf s =
      { mountOffset := cfg.mountOffset, slot := s.ec.announced, settling := s.ec.state == .settling, keep := s.keep
        run := s.src.runNumber, runState := s.src.runState, blockSeq := s.ss.blockSeq
        frameIndex := s.du.frameIndex, distance := s.du.distance
        presence := presenceMap s.nl s.src.station, attitude := s.su.state, entries := s.tt.count
        sticky := s.lc.sticky, mark := s.du.mark } := by
  unfold headstateOf State.stickyCarried
  rw [hp]

/-- The trigger whose frame index mod 32 is 31 ends with its HEADSTATE falling due, in a state that holds what it
reports (R183). -/
theorem frameTrigger_reports (hp : s.src.part = .operating cfg) (h31 : (s.du.frameIndex + 1).toNat % 32 = 31)
    (hopen : s.src.runState = .run → s.ss.openBlock ≠ none) (hskip : s.ec.cycle ≠ none → s.ss.openBlock = none) :
    ∃ c, frameTrigger cfg s = headstateDue (reportingState cfg c s)
      ∧ headstateOf (reportingState cfg c s) = triggerReport cfg s := by
  obtain ⟨c, hc⟩ := triggerExposure_between (cfg := cfg) h31 hopen hskip
  refine ⟨c, ?_, ?_⟩
  · rw [frameTrigger, hc]
    exact if_pos h31
  · have hcount : (reportingState cfg c s).tt.count = s.tt.count := count_map_entries _ _
    rw [headstateOf_operating (s := reportingState cfg c s) hp, hcount]
    rfl

theorem headstateDue_waits (h : s.lc.sendsHeadstate = true) :
    headstateDue s = s.setLc { s.lc with headstateDue := true } := if_pos h

theorem headstateDue_queues (h : ¬s.lc.sendsHeadstate = true) : headstateDue s = queueHeadstate s := if_neg h

end

/-- Settles O15: the HEADSTATE that falls due at the end of the trigger, and a HANDOVER, by what the queue holds. -/
theorem triggerQueuesHeadstate : Obligations.TriggerQueuesHeadstate := by
  refine ⟨fun cfg s hp h0 h31 hopen hskip => ?_, fun h s => ⟨fun hroom => ?_,
    fun hfull i ⟨hsighting, hsent, hfirst⟩ => ?_, fun hfull hnone i g hone hi hsent => ?_, fun hfull hnone hno => ?_⟩⟩
  · obtain ⟨c, htrigger, hreport⟩ := frameTrigger_reports hp h31 hopen hskip
    have hqueues (hno : s.lc.headstates = 0) := headstateDue_queues (s := reportingState cfg c s)
      (not_sendsHeadstate_of_count hno)
    refine ⟨headstateDue (reportingState cfg c s), triggerReport cfg s,
      (exec_frameTrigger_due hp h0).trans (congrArg _ htrigger), rfl, rfl, rfl, rfl, rfl, rfl, rfl, rfl, rfl, ?_, rfl, rfl,
      rfl, rfl, fun hsends => ?_, fun hno hroom => ?_, fun hno hfull i ⟨hsighting, hsent, hfirst⟩ => ?_,
      fun hno hfull hnone => ?_, fun i g hone hi hsent => ?_⟩
    · rw [headstateDue_nl]
      rfl
    · rw [headstateDue_waits (s := reportingState cfg c s) hsends]
      exact ⟨rfl, rfl⟩
    · have hjoins := queueHeadstate_joins (s := reportingState cfg c s) (oldest_headstate_none_of_count hno) hroom
      rw [hqueues hno, hjoins, hreport]
      exact ⟨rfl, rfl⟩
    · have hdisplaces := queueHeadstate_displaces (s := reportingState cfg c s) (oldest_headstate_none_of_count hno) hfull
        (oldest_sighting hsighting hsent hfirst)
      rw [hqueues hno, hdisplaces, hreport]
      exact ⟨rfl, rfl⟩
    · have hlost := queueHeadstate_lost (s := reportingState cfg c s) (oldest_headstate_none_of_count hno) hfull
        (oldest_sighting_none hnone)
      rw [hqueues hno, hlost]
      exact ⟨rfl, rfl⟩
    · have hqueues := headstateDue_queues (s := reportingState cfg c s) (not_sendsHeadstate_of_waiting hone hi hsent)
      have hreplaces := queueHeadstate_replaces (s := reportingState cfg c s) hi (oldest_headstate hone hi hsent)
      rw [hqueues, hreplaces, hreport]
      exact ⟨rfl, rfl⟩
  · rw [queueHandover_joins h hroom, join_eq]
    rfl
  · rw [queueHandover_full h hfull (oldest_sighting hsighting hsent hfirst), displace_eq]
    rfl
  · rw [queueHandover_returns h hfull (oldest_sighting_none hnone) hi (oldest_headstate hone hi hsent), displace_eq]
    rfl
  · rw [queueHandover_lost h hfull (oldest_sighting_none hnone) (oldest_headstate_none hno)]
    rfl

end Sys2Proof.Machine
end

section
/-! SUPPORT. Contention and the end of a transmission (R174, R175). -/

namespace Sys2Proof.Machine

/-! ### Events on the line -/

section
variable {s : State}

theorem onLine_of_not_held (act : LinkController → LinkController) (h : s.src.part ≠ .held) :
    onLine act s = s.setLc (act s.lc) := by
  unfold onLine
  split
  · rename_i hp
    exact absurd hp h
  · rfl

theorem drives_iff (l : LinkController) : l.drives = true ↔ l.tx = .contending true := beq_iff_eq

theorem transmits_iff (l : LinkController) : l.transmits = true ↔ l.tx = .contending true ∨ l.tx = .sending := by
  rw [LinkController.transmits, Bool.or_eq_true, drives_iff, beq_iff_eq]

theorem startTransmission_ready {x : Telegram} {rest : List Telegram} {l : LinkController} (station : Nat)
    (hq : l.txQueue = x :: rest) (htx : l.tx = .contending false) (hrx : l.rx = .ready) :
    startTransmission station l =
      { l with tx := .contending true, rx := .receiving, lineOut := x.levels station } := by
  rw [startTransmission, hq]
  exact if_pos ⟨htx, hrx⟩

theorem exec_transmitStart (hpart : s.src.part ≠ .held) (hcatch : catchUp s = s) :
    exec .transmitStart s = .next (s.setLc (startTransmission s.src.station s.lc)) := by
  show Host.Outcome.next (onLine (startTransmission (catchUp s).src.station) (catchUp s)) = _
  rw [hcatch, onLine_of_not_held _ hpart]

theorem exec_arbitrationLost (hpart : s.src.part ≠ .held) (hcatch : catchUp s = s) (htx : s.lc.tx = .contending true) :
    exec .arbitrationLost s = .next (s.setLc { s.lc with tx := .contending false, lineOut := [] }) := by
  show Host.Outcome.next (onLine _ (catchUp s)) = _
  rw [hcatch, onLine_of_not_held _ hpart, if_pos ((drives_iff _).mpr htx)]

theorem exec_arbitrationWon (hpart : s.src.part ≠ .held) (hcatch : catchUp s = s) (htx : s.lc.tx = .contending true) :
    exec .arbitrationWon s = .next (s.setLc { s.lc with tx := .sending }) := by
  show Host.Outcome.next (onLine _ (catchUp s)) = _
  rw [hcatch, onLine_of_not_held _ hpart, if_pos ((drives_iff _).mpr htx)]

end

/-- Settles O50: the three events, where the part is not held in reset and nothing is owed. -/
theorem contentionFollowsTheLine : Obligations.ContentionFollowsTheLine := by
  intro s hpart hcatch
  refine ⟨fun x rest hq htx hrx => ?_, fun htx => ⟨?_, ?_⟩⟩
  · rw [exec_transmitStart hpart hcatch, startTransmission_ready _ hq htx hrx]
    rfl
  · exact exec_arbitrationLost hpart hcatch htx
  · exact exec_arbitrationWon hpart hcatch htx

/-! ### The end of a transmission -/

/-- What the LC does once the telegram at the head has left, with `rest` behind it (R174, R175). -/
def txAfter (rest : List Telegram) : TxState := if rest = [] then .idle else .contending false

theorem leave_eq {x : Telegram} {rest : List Telegram} {l : LinkController} (hq : l.txQueue = x :: rest) (rx : RxState) :
    l.leave rx = { l with txQueue := rest, tx := txAfter rest, lineOut := [], rx := rx } := by
  unfold LinkController.leave LinkController.takeHead txAfter
  cases rest <;> simp [hq]

section
variable {s : State} {x : Telegram} {rest : List Telegram}

/-- The flags and the mark of a HEADSTATE that is lost come back, with TX_ERROR (R175, R182). -/
def State.lostHeadstate (s : State) (h : Headstate) : State := (returnHeadstate h s).raise .txError

theorem returnAt_headstate {h : Headstate} (hq : s.lc.txQueue = .headstate h :: rest) :
    returnAt 0 s = returnHeadstate h s := by
  rw [returnAt, hq]
  rfl

theorem returnAt_other (hq : s.lc.txQueue = x :: rest) (hx : x.isHeadstate = false) : returnAt 0 s = s := by
  unfold returnAt
  rw [hq]
  cases x with
  | headstate h => cases hx
  | _ => rfl

theorem exec_transmitComplete (hcatch : catchUp s = s) (htx : s.lc.tx = .sending) :
    exec .transmitComplete s = .next (completeTransmission s) := by
  show Host.Outcome.next (if (catchUp s).lc.tx = .sending then completeTransmission (catchUp s) else catchUp s) = _
  rw [hcatch, if_pos htx]

theorem exec_transmitError (hcatch : catchUp s = s) (htx : s.lc.tx = .sending ∨ s.lc.tx = .contending true) :
    exec .transmitError s = .next (loseTransmission s) := by
  show Host.Outcome.next (if (catchUp s).lc.transmits then loseTransmission (catchUp s) else catchUp s) = _
  rw [hcatch, if_pos ((transmits_iff _).mpr htx.symm)]

/-- A HEADSTATE that does not wait (R181). -/
theorem queueWaitingHeadstate_none (h : s.lc.headstateDue = false) : queueWaitingHeadstate s = s :=
  if_neg (by simp [h])

/-- A HEADSTATE that waited joins a queue with room in which no other stands (R181). -/
theorem queueWaitingHeadstate_joins (hdue : s.lc.headstateDue = true)
    (hno : ∀ y ∈ s.lc.txQueue, y.isHeadstate = false) (hroom : s.lc.txQueue.length < 12) :
    queueWaitingHeadstate s =
      { s with
        du := { s.du with mark := none }
        lc := { s.lc with
          txQueue := s.lc.txQueue ++ [.headstate (headstateOf (s.setLc { s.lc with headstateDue := false }))]
          tx := if s.lc.tx = .idle then .contending false else s.lc.tx, headstateDue := false, sticky := 0 } } := by
  have hnone : (s.setLc { s.lc with headstateDue := false }).lc.oldest Telegram.isHeadstate = none :=
    oldest_headstate_none fun i g hg => by simpa [Telegram.isHeadstate] using hno _ (List.mem_of_getElem? hg)
  rw [queueWaitingHeadstate, if_pos hdue, queueHeadstate_joins hnone hroom]
  rfl

/-- What a HEADSTATE takes of the Link Controller is its sticky flags alone (R184). -/
theorem headstateOf_setLc {l : LinkController} (h : l.sticky = s.lc.sticky) : headstateOf (s.setLc l) = headstateOf s := by
  unfold headstateOf State.stickyCarried
  rw [State.setLc_src, State.setLc_lc, h]
  cases s.src.part <;> rfl

/-- The state in which the telegram at the head has left the queue, with `rest` behind it. -/
def State.telegramLeft (s : State) (rest : List Telegram) (rx : RxState) : State :=
  s.setLc { s.lc with txQueue := rest, tx := txAfter rest, lineOut := [], rx := rx }

theorem completeTransmission_eq (hq : s.lc.txQueue = x :: rest) :
    completeTransmission s = queueWaitingHeadstate (s.telegramLeft rest .ready) := by
  rw [completeTransmission, leave_eq hq]
  rfl

theorem loseTransmission_other (hq : s.lc.txQueue = x :: rest) (hx : x.isHeadstate = false) :
    loseTransmission s = queueWaitingHeadstate ((s.raise .txError).telegramLeft rest .waitIdle) := by
  rw [loseTransmission, returnAt_other hq hx, leave_eq hq]
  rfl

theorem loseTransmission_headstate {h : Headstate} (hq : s.lc.txQueue = .headstate h :: rest) :
    loseTransmission s = queueWaitingHeadstate ((s.lostHeadstate h).telegramLeft rest .waitIdle) := by
  have hq' : (returnHeadstate h s).lc.txQueue = .headstate h :: rest := hq
  rw [loseTransmission, returnAt_headstate hq, leave_eq hq']
  rfl

/-- A HEADSTATE that waited is queued as the telegram before it leaves (R181). -/
theorem telegramLeft_queues (hdue : s.lc.headstateDue = true) (hno : ∀ y ∈ rest, y.isHeadstate = false)
    (hroom : rest.length < 12) (rx : RxState) :
    queueWaitingHeadstate (s.telegramLeft rest rx) =
      { s with
        du := { s.du with mark := none }
        lc := { s.lc with
          txQueue := rest ++ [.headstate (headstateOf s)], tx := .contending false, lineOut := []
          headstateDue := false, rx := rx, sticky := 0 } } := by
  have htx : (if (s.telegramLeft rest rx).lc.tx = .idle then .contending false else (s.telegramLeft rest rx).lc.tx)
      = TxState.contending false := by cases rest <;> rfl
  have hreport : headstateOf ((s.telegramLeft rest rx).setLc
      { (s.telegramLeft rest rx).lc with headstateDue := false }) = headstateOf s :=
    (headstateOf_setLc rfl).trans (headstateOf_setLc rfl)
  rw [queueWaitingHeadstate_joins (s := s.telegramLeft rest rx) hdue hno hroom, hreport, htx]
  rfl

end

/-- Settles O51: the telegram leaves, a HEADSTATE with its flags and mark returned, and one that waited is queued. -/
theorem transmissionEnds : Obligations.TransmissionEnds := by
  intro x rest s hcatch hq
  refine ⟨fun hdue => ⟨fun htx => ?_, fun htx hx => ?_, fun htx h hx => ?_⟩, fun hdue htx hno hroom => ⟨?_, fun h hx => ?_⟩⟩
  · rw [exec_transmitComplete hcatch htx, completeTransmission_eq hq]
    exact congrArg _ (queueWaitingHeadstate_none hdue)
  · rw [exec_transmitError hcatch htx, loseTransmission_other hq hx]
    exact congrArg _ (queueWaitingHeadstate_none hdue)
  · subst hx
    rw [exec_transmitError hcatch htx, loseTransmission_headstate hq]
    exact congrArg _ (queueWaitingHeadstate_none hdue)
  · rw [exec_transmitComplete hcatch htx, completeTransmission_eq hq]
    exact congrArg _ (telegramLeft_queues hdue hno hroom .ready)
  · subst hx
    rw [exec_transmitError hcatch (.inl htx), loseTransmission_headstate hq]
    exact congrArg _ (telegramLeft_queues (s := s.lostHeadstate h) hdue hno hroom .waitIdle)

end Sys2Proof.Machine
end

section
/-! SUPPORT. Numbers as bytes, high byte first, and the bytes read back as numbers (spec 10, section 10.8). -/

namespace Sys2Proof.Machine

@[simp] theorem bytesOf_length (n : Nat) (x : Int) : (bytesOf n x).length = n := by simp [bytesOf]

/-- The last byte of a number is its remainder by 256; those before it are the bytes of its quotient. -/
theorem bytesOf_succ (n : Nat) (x : Int) : bytesOf (n + 1) x = bytesOf n (x / 256) ++ [BitVec.ofInt 8 x] := by
  unfold bytesOf
  rw [List.range_succ, List.map_append]
  congr 1
  · refine List.map_congr_left fun k hk => ?_
    have hlt : k < n := List.mem_range.mp hk
    rw [Int.ediv_ediv_of_nonneg (by decide), show n + 1 - 1 - k = n - 1 - k + 1 by omega, Nat.pow_succ]
    push_cast
    rw [Int.mul_comm]
  · simp

theorem natOf_append (bs : List Byte) (b : Byte) : natOf (bs ++ [b]) = natOf bs * 256 + b.toNat := by simp [natOf]

/-- The bytes of a number spell its remainder by the power of 256 that they can hold. -/
theorem natOf_bytesOf (n : Nat) (x : Int) : (natOf (bytesOf n x) : Int) = x % 256 ^ n := by
  induction n generalizing x with
  | zero => simp [bytesOf, natOf]
  | succ n ih =>
    have hbyte : ((BitVec.ofInt 8 x).toNat : Int) = x % 256 := by
      rw [BitVec.toNat_ofInt]
      omega
    rw [bytesOf_succ, natOf_append]
    push_cast
    rw [ih, hbyte, pow_succ', Int.emod_def x (256 * 256 ^ n), ← Int.ediv_ediv_of_nonneg (by decide), Int.emod_def x,
      Int.emod_def (x / 256)]
    ring

theorem natOf_bytesOf_of_lt {n x : Nat} (h : x < 256 ^ n) : natOf (bytesOf n x) = x := by
  have hnat := natOf_bytesOf n x
  rw [Int.emod_eq_of_lt (by omega) (by exact_mod_cast h)] at hnat
  exact_mod_cast hnat

/-- A signed number that `n` bytes can hold in two's complement is read back. -/
theorem intOf_bytesOf {n : Nat} {x : Int} (hlow : -256 ^ n ≤ 2 * x) (hhigh : 2 * x < 256 ^ n) :
    intOf (bytesOf n x) = x := by
  have hnat := natOf_bytesOf n x
  have hpos : (0 : Int) < 256 ^ n := by positivity
  have hcast : ((256 ^ n : Nat) : Int) = 256 ^ n := by norm_num
  unfold intOf
  simp only [bytesOf_length]
  rcases lt_or_ge x 0 with hneg | hpos'
  · have hmod : x % 256 ^ n = x + 256 ^ n := by
      rw [← Int.add_emod_right, Int.emod_eq_of_lt (by omega) (by omega)]
    rw [if_neg (by omega)]
    omega
  · have hmod : x % 256 ^ n = x := Int.emod_eq_of_lt hpos' (by omega)
    rw [if_pos (by omega)]
    omega

end Sys2Proof.Machine
end

section
/-! SUPPORT. The bodies of HANDOVER, HEADSTATE and SIGHTING, as they are written and as they are read (R188 to R190). -/

namespace Sys2Proof.Machine

/-! ### Finding a field -/

section
variable {a b : List Byte} {offset n : Nat}

/-- What stands before a field is passed over. -/
theorem field_append_right (h : a.length ≤ offset) : field (a ++ b) offset n = field b (offset - a.length) n := by
  refine List.map_congr_left fun k _ => ?_
  rw [List.getD_append_right _ _ _ _ (by omega), show offset + k - a.length = offset - a.length + k by omega]

theorem field_cons {x : Byte} (h : 0 < offset) : field (x :: b) offset n = field b (offset - 1) n :=
  field_append_right (a := [x]) h

/-- A field is read whole where it begins. -/
theorem field_append_left (h : a.length = n) : field (a ++ b) 0 n = a := by
  refine List.ext_getElem (by simp [field, h]) fun k hk hk' => ?_
  simp [field, List.getElem?_append_left hk', List.getElem?_eq_getElem hk']

theorem field_all (h : a.length = n) : field a 0 n = a := by
  have hleft := field_append_left (b := []) h
  rwa [List.append_nil] at hleft

end

/-! ### Numbers of one to three bytes -/

theorem ofNat_natOf_bytesOf {w n : Nat} (x : BitVec w) (hw : 2 ^ w ≤ 256 ^ n) :
    BitVec.ofNat w (natOf (bytesOf n x.toNat)) = x := by
  rw [natOf_bytesOf_of_lt (x.isLt.trans_le hw), BitVec.ofNat_toNat, BitVec.setWidth_eq]

/-- A number of one byte. -/
theorem toNat_ofInt_byte {x : Nat} (h : x < 256) : (BitVec.ofInt 8 x).toNat = x := by
  rw [BitVec.toNat_ofInt]
  omega

theorem bytesOf_one (x : Int) : bytesOf 1 x = [BitVec.ofInt 8 x] := by simp [bytesOf]

/-! ### HANDOVER -/

section
variable (h : Handover)

theorem handoverBody_target : field (handoverBody h) 0 1 = bytesOf 1 h.target := by
  simp [handoverBody, field_append_left]

theorem handoverBody_tag : (handoverBody h).getD 1 0 = h.tag := by
  simp [handoverBody, bytesOf_one]

theorem handoverBody_x : field (handoverBody h) 2 3 = bytesOf 3 h.x := by
  simp [handoverBody, field_cons, field_append_right, field_append_left]

theorem handoverBody_v : field (handoverBody h) 5 2 = bytesOf 2 h.v := by
  simp [handoverBody, field_cons, field_append_right, field_append_left]

theorem handoverBody_height : field (handoverBody h) 7 2 = bytesOf 2 h.height := by
  simp [handoverBody, field_cons, field_append_right, field_append_left]

theorem handoverBody_frame : field (handoverBody h) 9 2 = bytesOf 2 h.frame.toNat := by
  simp [handoverBody, field_cons, field_append_right, field_all]

theorem handoverBody_length : (handoverBody h).length = 11 := by simp [handoverBody]

end

/-- Every field of a HANDOVER that its bytes can hold is read as it was written (R188). -/
theorem handoverOf_handoverBody {h : Handover} (htarget : h.target < 256) (hx : -8388608 ≤ h.x) (hx' : h.x < 8388608)
    (hv : -32768 ≤ h.v) (hv' : h.v < 32768) (hheight : h.height < 65536) : handoverOf (handoverBody h) = h := by
  unfold handoverOf
  rw [handoverBody_target, handoverBody_tag, handoverBody_x, handoverBody_v, handoverBody_height, handoverBody_frame,
    natOf_bytesOf_of_lt (by omega), intOf_bytesOf (by omega) (by omega), intOf_bytesOf (by omega) (by omega),
    natOf_bytesOf_of_lt (by omega), ofNat_natOf_bytesOf _ (by decide)]

/-! ### HEADSTATE -/

section
variable (h : Headstate)

theorem headstateBody_mount : field (headstateBody h) 0 3 = bytesOf 3 h.mountOffset := by
  simp [headstateBody, field_append_left]

theorem headstateBody_slot : (headstateBody h).getD 3 0 = BitVec.ofInt 8 (h.slot + 128 * bitOf h.settling : Nat) := by
  simp [headstateBody, bytesOf_one]

theorem headstateBody_sticky : field (headstateBody h) 21 2 = bytesOf 2 h.sticky.toNat := by
  simp [headstateBody, field_cons, field_append_right, field_append_left]

theorem headstateBody_length : (headstateBody h).length = 23 + (markBytes h.mark).length := by
  simp [headstateBody]
  omega

/-- A HEADSTATE has the two lengths that a HEADSTATE may have (R190). -/
theorem headstateBody_accepted : lengthAccepted .headstate (headstateBody h) = true := by
  unfold lengthAccepted
  rw [headstateBody_length]
  cases h.mark <;> simp [markBytes]

theorem headstateMountOf_headstateBody (hm : -8388608 ≤ h.mountOffset) (hm' : h.mountOffset < 8388608) :
    headstateMountOf (headstateBody h) = h.mountOffset := by
  rw [headstateMountOf, headstateBody_mount, intOf_bytesOf (by omega) (by omega)]

theorem headstateSlotOf_headstateBody (hs : h.slot ≤ 3) : headstateSlotOf (headstateBody h) = h.slot := by
  have hbit : bitOf h.settling ≤ 1 := by cases h.settling <;> decide
  rw [headstateSlotOf, headstateBody_slot, toNat_ofInt_byte (by omega)]
  omega

theorem headstateStickyOf_headstateBody : headstateStickyOf (headstateBody h) = h.sticky := by
  rw [headstateStickyOf, headstateBody_sticky, ofNat_natOf_bytesOf _ (by decide)]

end

/-! ### SIGHTING -/

section
variable (g : Sighting)

theorem sightingBody_lateral : field (sightingBody g) 31 3 = bytesOf 3 g.lateralMean := by
  delta sightingBody
  simp [field_cons, field_append_right, field_append_left]

theorem sightingBody_flags : field (sightingBody g) 36 3 = bytesOf 3 g.flags.toNat := by
  delta sightingBody
  simp [field_cons, field_append_right, field_append_left]

theorem sightingBody_length :
    (sightingBody g).length = 39 + ((wearBytes g.wear).length + (originBytes g.origin).length) := by
  delta sightingBody
  simp
  omega

theorem wearBytes_length (w : Option WearPart) : (wearBytes w).length = if w.isSome then 5 else 0 := by
  cases w <;> simp [wearBytes]

theorem originBytes_length (o : Option Origin) : (originBytes o).length = if o.isSome then 2 else 0 := by
  cases o <;> rfl

theorem sightingFlagsOf_sightingBody : sightingFlagsOf (sightingBody g) = g.flags := by
  rw [sightingFlagsOf, sightingBody_flags, ofNat_natOf_bytesOf _ (by decide)]

theorem sightingLateralOf_sightingBody (hl : -8388608 ≤ g.lateralMean) (hl' : g.lateralMean < 8388608) :
    sightingLateralOf (sightingBody g) = g.lateralMean := by
  rw [sightingLateralOf, sightingBody_lateral, intOf_bytesOf (by omega) (by omega)]

/-- The origin part ends the body. -/
theorem sightingBody_origin {offset : Nat} (h : offset = 39 + (wearBytes g.wear).length) (k : Nat) :
    (sightingBody g).getD (offset + k) 0 = (originBytes g.origin).getD k 0 := by
  obtain ⟨before, hbefore⟩ : ∃ before, sightingBody g = before ++ originBytes g.origin := ⟨_, rfl⟩
  have hlength := sightingBody_length g
  rw [hbefore, List.length_append] at hlength
  rw [hbefore, List.getD_append_right _ _ _ _ (by omega), show offset + k - before.length = k by omega]

variable {g} (hwear : SightFlag.wearPresent.isSetIn g.flags = g.wear.isSome)
  (horigin : SightFlag.originPresent.isSetIn g.flags = g.origin.isSome)
include hwear horigin

theorem sightingBody_accepted : lengthAccepted .sighting (sightingBody g) = true := by
  have hlength : (sightingBody g).length = sightingLength g.flags := by
    rw [sightingBody_length, sightingLength, hwear, horigin, wearBytes_length, originBytes_length, Nat.add_assoc]
  rw [lengthAccepted, sightingFlagsOf_sightingBody, hlength, beq_self_eq_true]

/-- The origin part stands behind the wear part, if there is one (R189). -/
theorem sightingOriginOf_sightingBody (hstation : ∀ o, g.origin = some o → o.station < 256) :
    sightingOriginOf (sightingBody g) = g.origin := by
  have hoffset : (if g.wear.isSome = true then 44 else 39) = 39 + (wearBytes g.wear).length := by
    rw [wearBytes_length]
    split <;> rfl
  unfold sightingOriginOf
  rw [sightingFlagsOf_sightingBody]
  dsimp only
  rw [hwear, horigin, sightingBody_origin g hoffset 1]
  cases ho : g.origin with
  | none => rfl
  | some o =>
    have hfirst := sightingBody_origin g hoffset 0
    rw [Nat.add_zero, ho] at hfirst
    rw [hfirst]
    show some (Origin.mk (BitVec.ofNat 8 o.station).toNat o.tag) = some o
    rw [BitVec.toNat_ofNat, Nat.mod_eq_of_lt (hstation o ho)]

end

/-- Settles O54: each field that a head reads stands where the sender wrote it. -/
theorem bodiesRoundTrip : Obligations.BodiesRoundTrip := by
  refine ⟨fun h htarget hx hx' hv hv' hheight => ⟨?_, ?_⟩, fun h hm hm' hs => ⟨?_, ?_, ?_, ?_⟩,
    fun g hwear horigin hl hl' hstation => ⟨?_, ?_, ?_, ?_⟩⟩
  · exact handoverOf_handoverBody htarget hx hx' hv hv' hheight
  · rw [lengthAccepted, handoverBody_length]
    rfl
  · exact headstateMountOf_headstateBody h hm hm'
  · exact headstateSlotOf_headstateBody h hs
  · exact headstateStickyOf_headstateBody h
  · exact headstateBody_accepted h
  · exact sightingLateralOf_sightingBody g hl hl'
  · exact sightingOriginOf_sightingBody hwear horigin hstation
  · exact sightingFlagsOf_sightingBody g
  · exact sightingBody_accepted hwear horigin

end Sys2Proof.Machine
end

section
/-! SUPPORT. Reception: the bytes that the levels on the line spell, and what makes a telegram good (R171, R176). -/

namespace Sys2Proof.Machine

/-! ### Bytes on the line -/

/-- A bit shifted into a byte is one more binary digit. -/
theorem shiftIn_ofNat (n : Nat) (p : Prop) [Decidable p] :
    (BitVec.ofNat 8 n <<< 1) ||| (if p then 1 else 0) = BitVec.ofNat 8 (2 * n + if p then 1 else 0) := by
  refine BitVec.eq_of_getLsbD_eq fun i hi => ?_
  cases i with
  | zero =>
    simp only [BitVec.getLsbD_or, BitVec.getLsbD_shiftLeft, BitVec.getLsbD_ofNat, Nat.testBit_zero]
    by_cases hp : p <;> simp [hp]
  | succ i =>
    have hlow : ((if p then 1 else 0 : Byte)).getLsbD (i + 1) = false := by
      by_cases hp : p <;> simp [hp]
    have hdigit : (2 * n + if p then 1 else 0) / 2 = n := by split <;> omega
    rw [BitVec.getLsbD_or, hlow, BitVec.getLsbD_ofNat, Nat.testBit_succ, hdigit, BitVec.getLsbD_shiftLeft,
      Nat.add_sub_cancel, BitVec.getLsbD_ofNat]
    simp [show i < 8 by omega, hi]

theorem foldl_shiftIn (p : Nat → Prop) [DecidablePred p] (js : List Nat) (n : Nat) :
    js.foldl (fun (b : Byte) j => (b <<< 1) ||| (if p j then 1 else 0)) (BitVec.ofNat 8 n) =
      BitVec.ofNat 8 (js.foldl (fun x j => 2 * x + if p j then 1 else 0) n) := by
  induction js generalizing n with
  | nil => rfl
  | cons j js ih => rw [List.foldl_cons, List.foldl_cons, shiftIn_ofNat, ih]

/-- A byte on the line, as the number its eight levels spell, the first the most significant (R171). -/
theorem byteAt_eq (ls : List Level) (k : Nat) :
    byteAt ls k = BitVec.ofNat 8 ([0, 1, 2, 3, 4, 5, 6, 7].foldl
      (fun x j => 2 * x + if levelAt ls (9 * k + j) = .recessive then 1 else 0) 0) :=
  foldl_shiftIn (fun j => levelAt ls (9 * k + j) = .recessive) _ 0

/-! ### The checks of reception -/

/-- The number of body bytes that the length byte of a telegram announces. -/
def bodyLength (ls : List Level) : Nat := (byteAt ls 1).toNat

/-- What a telegram must be to be good: its length, its separators, its end field and its CRC (R172, R176). -/
def GoodLine (ls : List Level) : Prop :=
  bodyLength ls ≤ 48 ∧ (∀ k < bodyLength ls + 4, levelAt ls (9 * k + 8) = .dominant)
    ∧ levelAt ls (9 * (bodyLength ls + 4)) = .recessive ∧ levelAt ls (9 * (bodyLength ls + 4) + 1) = .recessive
    ∧ 256 * (byteAt ls (bodyLength ls + 2)).toNat + (byteAt ls (bodyLength ls + 3)).toNat =
      (crc16 ((List.range (bodyLength ls + 2)).map (byteAt ls))).toNat

/-- What a good telegram holds: its identifier and its body. -/
def telegramOn (ls : List Level) : RxTelegram :=
  ⟨byteAt ls 0, (List.range (bodyLength ls)).map fun k => byteAt ls (k + 2)⟩

theorem natOf_pair (a b : Byte) : natOf [a, b] = 256 * a.toNat + b.toNat := by
  show (0 * 256 + a.toNat) * 256 + b.toNat = _
  omega

/-- The two bytes behind those that the CRC covers. -/
theorem drop_covered (f : Nat → Byte) (n : Nat) :
    ((List.range (n + 4)).map f).drop (n + 2) = [f (n + 2), f (n + 3)] := by
  rw [List.range_succ, List.range_succ, List.append_assoc, List.map_append, List.drop_left' (by simp)]
  rfl

theorem take_covered (f : Nat → Byte) (n : Nat) :
    ((List.range (n + 4)).map f).take (n + 2) = (List.range (n + 2)).map f := by
  rw [← List.map_take, List.take_range, Nat.min_eq_left (by omega)]

/-- The body's bytes, behind the identifier and the length byte. -/
theorem take_body (f : Nat → Byte) (n : Nat) :
    (((List.range (n + 4)).map f).drop 2).take n = (List.range n).map fun k => f (k + 2) := by
  refine List.ext_getElem (by simp) fun k hk hk' => ?_
  simp [Nat.add_comm]

theorem receive_eq (ls : List Level) [Decidable (GoodLine ls)] :
    receive ls = if GoodLine ls then some (telegramOn ls) else none := by
  unfold receive
  dsimp only
  rw [drop_covered, take_covered, take_body, natOf_pair]
  refine if_congr ?_ rfl rfl
  simp [GoodLine, bodyLength, and_assoc]

theorem receive_good {ls : List Level} (h : GoodLine ls) : receive ls = some (telegramOn ls) := by
  classical
  rw [receive_eq, if_pos h]

theorem receive_bad {ls : List Level} (h : ¬GoodLine ls) : receive ls = none := by
  classical
  rw [receive_eq, if_neg h]

/-! ### The events of the receive side -/

section
variable {s : State} (hpart : s.src.part ≠ .held) (hcatch : catchUp s = s)
include hpart hcatch

theorem exec_lineIdle (hrx : s.lc.rx = .waitIdle) :
    exec .lineIdle s = .next (s.setLc { s.lc with rx := .ready }) := by
  show Host.Outcome.next (onLine _ (catchUp s)) = _
  rw [hcatch, onLine_of_not_held _ hpart, if_pos hrx]

theorem exec_startBit (hrx : s.lc.rx = .ready) : exec .startBit s = .next (s.setLc { s.lc with rx := .receiving }) := by
  show Host.Outcome.next (onLine _ (catchUp s)) = _
  rw [hcatch, onLine_of_not_held _ hpart, if_pos hrx]

theorem exec_telegramReceived (hrx : s.lc.rx = .receiving) (hdrives : s.lc.tx ≠ .contending true)
    (hsends : s.lc.tx ≠ .sending) (levels : List Level) :
    exec (.telegramReceived levels) s = .next (s.setLc (endReception levels s.lc)) := by
  have hquiet : s.lc.transmits = false := by
    rw [← Bool.not_eq_true, transmits_iff, not_or]
    exact ⟨hdrives, hsends⟩
  show Host.Outcome.next (onLine _ (catchUp s)) = _
  rw [hcatch, onLine_of_not_held _ hpart, if_pos ⟨hrx, hquiet⟩]

end

theorem endReception_bad {levels : List Level} (h : ¬GoodLine levels) (l : LinkController) :
    endReception levels l = { l with rx := .waitIdle, sticky := l.sticky ||| StickyFlag.linkError.mask } := by
  rw [endReception, receive_bad h]
  rfl

theorem endReception_good {levels : List Level} (h : GoodLine levels) (l : LinkController) :
    endReception levels l =
      { l with
        rx := .ready
        rxBuffers := if l.rxBuffers.length < 2 then l.rxBuffers ++ [telegramOn levels] else l.rxBuffers
        sticky := if l.rxBuffers.length < 2 then l.sticky else l.sticky ||| StickyFlag.rxOverrun.mask } := by
  rw [endReception, receive_good h]
  dsimp only [storeTelegram]
  by_cases hroom : l.rxBuffers.length < 2
  · rw [if_pos hroom, if_pos hroom, if_pos hroom]
  · rw [if_neg hroom, if_neg hroom, if_neg hroom]
    rfl

/-- Settles O52: a telegram is good by the checks that `receive` makes, over the bytes as numbers. -/
theorem receptionFollowsTheLine : Obligations.ReceptionFollowsTheLine := by
  intro s hpart hcatch
  refine ⟨fun hrx => exec_lineIdle hpart hcatch hrx, fun hrx => exec_startBit hpart hcatch hrx,
    fun hrx hdrives hsends levels => ?_⟩
  intro level byte n good x
  have hbyte : byteAt levels = byte := funext (byteAt_eq levels)
  have hgood : GoodLine levels = good := by
    unfold GoodLine bodyLength
    rw [hbyte]
    rfl
  have htelegram : telegramOn levels = x := by
    unfold telegramOn bodyLength
    rw [hbyte]
  rw [exec_telegramReceived hpart hcatch hrx hdrives hsends, ← hgood]
  refine ⟨fun hbad => ?_, fun hgood => ?_⟩
  · rw [endReception_bad hbad]
    rfl
  · rw [endReception_good hgood, htelegram]
    rfl

end Sys2Proof.Machine
end

section
/-! SUPPORT. A telegram on the line: its layout, and its reception (R171, R172, R176, R187). -/

namespace Sys2Proof.Machine

/-! ### The levels of bytes -/

/-- The eight levels of each of the 256 bytes give it back. -/
theorem byte_of_levels : ∀ b : Byte,
    [0, 1, 2, 3, 4, 5, 6, 7].foldl
      (fun (r : Byte) j => (r <<< 1) ||| (if levelOf (b.getLsbD (7 - j)) = .recessive then 1 else 0)) 0 = b := by
  decide

section
variable {bytes : List Byte} {tail : List Level} {k j : Nat} {b : Byte}

theorem flatMap_byteLevels_length (bytes : List Byte) : (bytes.flatMap byteLevels).length = 9 * bytes.length := by
  induction bytes with
  | nil => rfl
  | cons c cs ih =>
    rw [List.flatMap_cons, List.length_append, ih, List.length_cons]
    show 9 + 9 * cs.length = _
    omega

/-- The levels of byte number `k`, nine for each byte. -/
theorem levelAt_byte (hk : bytes[k]? = some b) (hj : j < 9) :
    levelAt (bytes.flatMap byteLevels ++ tail) (9 * k + j) = (byteLevels b).getD j .recessive := by
  unfold levelAt
  induction bytes generalizing k with
  | nil => cases hk
  | cons c cs ih =>
    rw [List.flatMap_cons, List.append_assoc]
    cases k with
    | zero =>
      obtain rfl : c = b := Option.some.inj hk
      rw [Nat.mul_zero, Nat.zero_add, List.getD_append _ _ _ _ hj]
    | succ k =>
      have hskip : 9 * (k + 1) + j - (byteLevels c).length = 9 * k + j := by
        show 9 * (k + 1) + j - 9 = _
        omega
      rw [List.getD_append_right _ _ _ _ (show 9 ≤ 9 * (k + 1) + j by omega), hskip]
      exact ih (by simpa using hk)

/-- The levels behind the bytes. -/
theorem levelAt_behind (bytes : List Byte) (tail : List Level) (j : Nat) :
    levelAt (bytes.flatMap byteLevels ++ tail) (9 * bytes.length + j) = levelAt tail j := by
  unfold levelAt
  rw [List.getD_append_right _ _ _ _ (by rw [flatMap_byteLevels_length]; omega), flatMap_byteLevels_length,
    Nat.add_sub_cancel_left]

/-- Each byte is read back. -/
theorem byteAt_byte (hk : bytes[k]? = some b) : byteAt (bytes.flatMap byteLevels ++ tail) k = b := by
  rw [← byte_of_levels b]
  refine List.foldl_ext _ _ _ fun r j hj => ?_
  have hlevel : ∀ j ∈ [0, 1, 2, 3, 4, 5, 6, 7], (byteLevels b).getD j .recessive = levelOf (b.getLsbD (7 - j)) := by
    simp [byteLevels]
  have hlt : j < 9 := by
    simp only [List.mem_cons, List.not_mem_nil, or_false] at hj
    omega
  rw [levelAt_byte hk hlt, hlevel j hj]

/-- Each separator is dominant (R171). -/
theorem levelAt_separator (hk : k < bytes.length) :
    levelAt (bytes.flatMap byteLevels ++ tail) (9 * k + 8) = .dominant :=
  levelAt_byte (List.getElem?_eq_getElem hk) (by decide)

theorem map_byteAt {n : Nat} (hn : n ≤ bytes.length) :
    (List.range n).map (byteAt (bytes.flatMap byteLevels ++ tail)) = bytes.take n := by
  refine List.ext_getElem (by simp [hn]) fun k hk hk' => ?_
  rw [List.length_map, List.length_range] at hk
  rw [List.getElem_map, List.getElem_range, List.getElem_take]
  exact byteAt_byte (List.getElem?_eq_getElem _)

end

/-! ### The layout of a telegram -/

section
variable (ident : Byte) (body : List Byte)

/-- What the CRC of a telegram covers (R172). -/
def coveredBytes : List Byte := ident :: BitVec.ofNat 8 body.length :: body

/-- The two bytes of a CRC, high byte first (R171). -/
theorem bytesOf_crc (crc : Word16) : bytesOf 2 crc.toNat = [crc.extractLsb' 8 8, crc.extractLsb' 0 8] := by
  have hhigh : BitVec.ofInt 8 ((crc.toNat : Int) / 256) = crc.extractLsb' 8 8 := by
    refine BitVec.eq_of_toNat_eq ?_
    rw [BitVec.toNat_ofInt, BitVec.extractLsb'_toNat, Nat.shiftRight_eq_div_pow]
    omega
  have hlow : BitVec.ofInt 8 (crc.toNat : Int) = crc.extractLsb' 0 8 := by
    refine BitVec.eq_of_toNat_eq ?_
    rw [BitVec.toNat_ofInt, BitVec.extractLsb'_toNat, Nat.shiftRight_zero]
    omega
  rw [bytesOf_succ, bytesOf_one, hhigh, hlow]
  rfl

/-- The recessive bits behind the bytes: end field and idle (R171). -/
def restBits : List Level := List.replicate 10 .recessive

theorem telegramBytes_eq :
    telegramBytes ident body = coveredBytes ident body
      ++ [(crc16 (coveredBytes ident body)).extractLsb' 8 8, (crc16 (coveredBytes ident body)).extractLsb' 0 8] := by
  rw [← bytesOf_crc]
  rfl

theorem telegramBytes_length : (telegramBytes ident body).length = body.length + 4 := by
  rw [telegramBytes_eq, List.length_append]
  rfl

theorem take_telegramBytes : (telegramBytes ident body).take (body.length + 2) = coveredBytes ident body := by
  rw [telegramBytes_eq]
  exact List.take_left' rfl

theorem telegramBytes_body : ((telegramBytes ident body).drop 2).take body.length = body := by
  rw [telegramBytes_eq]
  exact List.take_left' rfl

theorem lineLevels_eq :
    lineLevels ident body = .dominant :: ((telegramBytes ident body).flatMap byteLevels ++ restBits) := by
  rw [lineLevels, List.append_assoc, List.cons_append]
  rfl

theorem lineLevels_length : (lineLevels ident body).length = 11 + 9 * (body.length + 4) := by
  rw [lineLevels_eq, List.length_cons, List.length_append, flatMap_byteLevels_length, telegramBytes_length]
  show 9 * (body.length + 4) + 10 + 1 = _
  omega

/-! ### Its reception -/

theorem bodyLength_line (hlen : body.length ≤ 48) : bodyLength (lineLevels ident body).tail = body.length := by
  rw [lineLevels_eq]
  have hbyte : byteAt ((telegramBytes ident body).flatMap byteLevels ++ restBits) 1 = BitVec.ofNat 8 body.length :=
    byteAt_byte rfl
  rw [List.tail_cons, bodyLength, hbyte, BitVec.toNat_ofNat]
  omega

/-- A telegram on the line meets every check (R176). -/
theorem goodLine (hlen : body.length ≤ 48) : GoodLine (lineLevels ident body).tail := by
  have hcrc (k : Nat) {b : Byte} (hb : [(crc16 (coveredBytes ident body)).extractLsb' 8 8,
      (crc16 (coveredBytes ident body)).extractLsb' 0 8][k]? = some b) :
      (telegramBytes ident body)[body.length + 2 + k]? = some b := by
    rw [telegramBytes_eq, List.getElem?_append_right (show body.length + 2 ≤ _ by omega)]
    rwa [show body.length + 2 + k - (coveredBytes ident body).length = k from Nat.add_sub_cancel_left _ _]
  have hbytes := telegramBytes_length ident body
  unfold GoodLine
  rw [bodyLength_line ident body hlen, lineLevels_eq, List.tail_cons]
  refine ⟨hlen, fun k hk => levelAt_separator (hbytes ▸ hk), ?_, ?_, ?_⟩
  · exact hbytes ▸ levelAt_behind _ restBits 0
  · exact hbytes ▸ levelAt_behind _ restBits 1
  · rw [byteAt_byte (hcrc 0 rfl), byteAt_byte (hcrc 1 rfl), map_byteAt (by omega), ← natOf_pair, take_telegramBytes,
      ← bytesOf_crc, natOf_bytesOf_of_lt (BitVec.isLt _)]

/-- A telegram put on the line is received whole (R176). -/
theorem receive_line (hlen : body.length ≤ 48) :
    receive (lineLevels ident body).tail = some ⟨ident, body⟩ := by
  have hbytes := telegramBytes_length ident body
  rw [receive_good (goodLine ident body hlen), telegramOn, bodyLength_line ident body hlen, lineLevels_eq, List.tail_cons,
    byteAt_byte (b := ident) rfl, ← take_body, map_byteAt hbytes.ge, List.take_of_length_le hbytes.le,
    telegramBytes_body]

end

end Sys2Proof.Machine
end

section
/-! SUPPORT. The CRC as a polynomial remainder over the field of two elements (R172). -/

namespace Sys2Proof.Machine

open Polynomial

/-! ### Bits as polynomials -/

/-- A bit as a coefficient. -/
noncomputable def coeffOf (b : Bool) : Polynomial (ZMod 2) := if b then 1 else 0

theorem coeffOf_true : coeffOf true = 1 := rfl

theorem coeffOf_false : coeffOf false = 0 := rfl

/-- A sequence of bits as a polynomial, the first bit the coefficient of the highest power. -/
noncomputable def polyOf (bits : List Bool) : Polynomial (ZMod 2) := bits.foldl (fun p b => p * X + coeffOf b) 0

/-- The bits of a register, the most significant first. -/
def registerBits (r : Word16) : List Bool := [15, 14, 13, 12, 11, 10, 9, 8, 7, 6, 5, 4, 3, 2, 1, 0].map r.getLsbD

/-- A register as a polynomial, bit i the coefficient of the power i. -/
noncomputable def registerPoly (r : Word16) : Polynomial (ZMod 2) :=
  ∑ i ∈ Finset.range 16, coeffOf (r.getLsbD i) * X ^ i

/-- The polynomial of the CRC (R172). -/
noncomputable def crcPoly : Polynomial (ZMod 2) := X ^ 16 + X ^ 12 + X ^ 5 + 1

theorem polyOf_append (bits : List Bool) (b : Bool) : polyOf (bits ++ [b]) = polyOf bits * X + coeffOf b := by
  rw [polyOf, List.foldl_append]
  rfl

theorem polyOf_registerBits (r : Word16) : polyOf (registerBits r) = registerPoly r := by
  simp only [polyOf, registerBits, registerPoly, List.map_cons, List.map_nil, List.foldl_cons, List.foldl_nil,
    Finset.sum_range_succ, Finset.sum_range_zero]
  ring

/-- Over two elements the sum of two bits is their exclusive or. -/
theorem coeffOf_bne (a b : Bool) : coeffOf (a != b) = coeffOf a + coeffOf b := by
  cases a <;> cases b <;> simp [coeffOf, CharTwo.add_self_eq_zero]

/-! ### One bit into the register -/

theorem registerPoly_xor (r p : Word16) : registerPoly (r ^^^ p) = registerPoly r + registerPoly p := by
  unfold registerPoly
  rw [← Finset.sum_add_distrib]
  refine Finset.sum_congr rfl fun i _ => ?_
  rw [BitVec.getLsbD_xor, ← Bool.bne_eq_xor, coeffOf_bne, add_mul]

/-- A shift multiplies by X, less the bit that is shifted out. -/
theorem registerPoly_shift (r : Word16) :
    registerPoly (r <<< 1) + coeffOf (r.getLsbD 15) * X ^ 16 = registerPoly r * X := by
  have hzero : coeffOf ((r <<< 1).getLsbD 0) = 0 := by simp [coeffOf]
  have hbit (i : Nat) (hi : i ∈ Finset.range 15) : (r <<< 1).getLsbD (i + 1) = r.getLsbD i := by
    have hlt : i + 1 < 16 := Nat.succ_lt_succ (Finset.mem_range.mp hi)
    rw [BitVec.getLsbD_shiftLeft, Nat.add_sub_cancel]
    simp [hlt]
  unfold registerPoly
  rw [Finset.sum_range_succ' _ 15, hzero, zero_mul, add_zero, Finset.sum_mul, Finset.sum_range_succ _ 15]
  refine congrArg₂ (· + ·) (Finset.sum_congr rfl fun i hi => ?_) ?_
  · rw [hbit i hi]
    ring
  · ring

/-- Over two elements what is added twice is gone. -/
theorem two_eq_zero : (2 : Polynomial (ZMod 2)) = 0 := CharTwo.two_eq_zero

theorem registerPoly_feedback : registerPoly 0x1021 = X ^ 12 + X ^ 5 + 1 := by
  have hbits : registerBits 0x1021 = [false, false, false, true, false, false, false, false, false, false, true, false,
      false, false, false, true] := by decide
  rw [← polyOf_registerBits, hbits]
  simp only [polyOf, coeffOf_true, coeffOf_false, List.foldl_cons, List.foldl_nil]
  ring

/-- A bit that enters the register multiplies it by X and adds the bit at the power 16, up to the polynomial. -/
theorem registerPoly_crcBit (r : Word16) (b : Bool) :
    registerPoly (crcBit r b) + coeffOf (r.getLsbD 15 != b) * crcPoly =
      registerPoly r * X + coeffOf b * X ^ 16 := by
  have hshift := registerPoly_shift r
  have hbit := coeffOf_bne (r.getLsbD 15) b
  unfold crcBit crcPoly
  split
  · rename_i hout
    rw [registerPoly_xor, registerPoly_feedback]
    rw [hout, coeffOf_true] at hbit
    rw [hout, coeffOf_true]
    linear_combination hshift + X ^ 16 * hbit + (X ^ 12 + X ^ 5 + 1 : Polynomial (ZMod 2)) * two_eq_zero
  · rename_i hout
    rw [Bool.not_eq_true] at hout
    rw [hout, coeffOf_false] at hbit
    rw [hout, coeffOf_false]
    linear_combination hshift + X ^ 16 * hbit

/-! ### The whole register -/

/-- What a register holds after some bits is the remainder of the bits times X^16, with what it held before added at
the front. -/
theorem registerPoly_foldl (r : Word16) (bits : List Bool) :
    ∃ q, polyOf bits * X ^ 16 + registerPoly r * X ^ bits.length = q * crcPoly + registerPoly (bits.foldl crcBit r) := by
  induction bits using List.reverseRecOn with
  | nil => exact ⟨0, by simp [polyOf]⟩
  | append_singleton bits b ih =>
    obtain ⟨q, hq⟩ := ih
    have hstep := registerPoly_crcBit (bits.foldl crcBit r) b
    refine ⟨q * X + coeffOf ((bits.foldl crcBit r).getLsbD 15 != b), ?_⟩
    rw [polyOf_append, List.foldl_append, List.foldl_cons, List.foldl_nil, List.length_append, List.length_singleton]
    linear_combination X * hq - hstep

/-- The bits of a byte, the most significant first. -/
def byteBits (b : Byte) : List Bool := [7, 6, 5, 4, 3, 2, 1, 0].map fun k => b.getLsbD k

theorem crc16_eq_foldl_bits (bytes : List Byte) : crc16 bytes = (bytes.flatMap byteBits).foldl crcBit 0xFFFF := by
  rw [crc16, List.foldl_flatMap]
  rfl

theorem flatMap_byteBits_length (bytes : List Byte) : (bytes.flatMap byteBits).length = 8 * bytes.length := by
  induction bytes with
  | nil => rfl
  | cons b bs ih =>
    rw [List.flatMap_cons, List.length_append, ih, List.length_cons]
    show 8 + 8 * bs.length = _
    omega

/-- The CRC of bytes is the remainder of their bits times X^16, with the first 16 bits inverted (R172). -/
theorem crc16_remainder (bytes : List Byte) :
    ∃ q, polyOf (bytes.flatMap byteBits) * X ^ 16 + polyOf (List.replicate 16 true) * X ^ (8 * bytes.length) =
      q * crcPoly + polyOf (registerBits (crc16 bytes)) := by
  obtain ⟨q, hq⟩ := registerPoly_foldl 0xFFFF (bytes.flatMap byteBits)
  have hones : registerBits 0xFFFF = List.replicate 16 true := by decide
  refine ⟨q, ?_⟩
  rw [← hones, polyOf_registerBits, polyOf_registerBits, crc16_eq_foldl_bits, ← hq, flatMap_byteBits_length]

/-- The start-up block carries its CRC high byte first (R196). -/
theorem crcGood_iff (block : List Byte) : crcGood block = true ↔
    256 * (block.getD 126 0).toNat + (block.getD 127 0).toNat = (crc16 (block.take 126)).toNat := by
  rw [crcGood, beq_iff_eq, ← natOf_pair]
  rfl

/-- Settles O53: the line by its layout, the CRC by its register, bit by bit. -/
theorem lineRoundTrip : Obligations.LineRoundTrip := by
  refine ⟨fun ident body hlen => ⟨?_, lineLevels_length ident body, receive_line ident body hlen, ?_⟩, crc16_remainder,
    crcGood_iff⟩
  · rw [lineLevels_eq]
    rfl
  · rw [lineLevels_eq, telegramBytes_eq]
    rfl

end Sys2Proof.Machine
end

section
/-! SUPPORT. The start-up block brought into range: each field clamped, the fields tied, the windows trimmed (R198 to
R200). -/

namespace Sys2Proof.Machine

/-! ### Clamping and tying -/

theorem clampNat_eq {lo hi : Nat} (h : lo ≤ hi) (x : Nat) : clampNat lo hi x = max lo (min hi x) := by
  unfold clampNat
  split <;> [skip; split] <;> omega

theorem clampNat_of_range {lo hi x : Nat} (h : lo ≤ x ∧ x ≤ hi) : clampNat lo hi x = x := by
  rw [clampNat, if_neg (Nat.not_lt.mpr h.1), if_neg (Nat.not_lt.mpr h.2)]

theorem clampInt_of_range {lo hi x : Int} (h : lo ≤ x ∧ x ≤ hi) : clampInt lo hi x = x := by
  rw [clampInt, if_neg (Int.not_lt.mpr h.1), if_neg (Int.not_lt.mpr h.2)]

theorem clampRule_eq (r : GovernorRule) : clampRule r =
    { r with
      source := if r.source = 0 then 0 else 1
      threshold := if r.source = 0 then max 1 (min 4 r.threshold) else max 0 (min 255 r.threshold)
      keep := max 1 (min 8 r.keep) } := by
  unfold clampRule
  by_cases h : r.source = 0 <;> simp [h, clampNat_eq]

theorem tieClass_clampClass (w : WireClass) : tieClass (clampClass w) =
    { radius := max 3000 (min 9000 w.radius)
      nominal := max (max 6000 (min 18000 w.nominal)) (max 3000 (min 9000 w.radius))
      wearLimit := min (max 0 (min 18000 w.wearLimit))
        (max (max 6000 (min 18000 w.nominal)) (max 3000 (min 9000 w.radius)))
      staggerLimit := max 0 (min 1000000 w.staggerLimit) } := by
  simp only [tieClass, clampClass, clampNat_eq (show 3000 ≤ 9000 by decide), clampNat_eq (show 6000 ≤ 18000 by decide),
    clampNat_eq (Nat.zero_le _)]

/-! ### The ranges -/

/-- Base and mask of a window have no bit above bit 10 (R198). -/
def WindowInRange (w : Window) : Prop := w.base < 2048 ∧ w.mask < 2048

/-- The ranges of a governor rule, that of the threshold by its source (R198). -/
def RuleInRange (r : GovernorRule) : Prop :=
  (1 ≤ r.keep ∧ r.keep ≤ 8)
    ∧ (r.source = 0 ∧ 1 ≤ r.threshold ∧ r.threshold ≤ 4 ∨ r.source = 1 ∧ r.threshold ≤ 255)

/-- The figures of a wire class in their ranges (R198) and tied (R199). -/
def ClassInRange (w : WireClass) : Prop :=
  (3000 ≤ w.radius ∧ w.radius ≤ 9000) ∧ (6000 ≤ w.nominal ∧ w.nominal ≤ 18000) ∧ w.radius ≤ w.nominal
    ∧ w.wearLimit ≤ w.nominal ∧ w.staggerLimit ≤ 1000000

/-- The fields of a block in the ranges of R198 and tied as R199 says. -/
structure FieldsInRange (c : Startup) : Prop where
  mountOffset : -1500000 ≤ c.mountOffset ∧ c.mountOffset ≤ 1500000
  refHeight : c.refHeight ≤ 4000
  pitch : 1 ≤ c.pitch ∧ c.pitch ≤ 64
  exposure : 5 ≤ c.exposure ∧ c.exposure ≤ 40
  slot : c.slot ≤ 3
  band : 1 ≤ c.bandLow ∧ c.bandLow < c.bandHigh ∧ c.bandHigh ≤ 4095
  thresholds : 1 ≤ c.tDet ∧ c.tDet ≤ c.tFace ∧ c.tFace ≤ 4095
  stray : 1 ≤ c.tStray ∧ c.tStray ≤ 4095
  windows : ∀ w ∈ c.windows, WindowInRange w
  rules : ∀ r ∈ c.rules, RuleInRange r
  classes : ∀ w ∈ c.classes, ClassInRange w

theorem clampWindow_inRange (w : Window) : WindowInRange (clampWindow w) :=
  ⟨Nat.mod_lt _ (by decide), Nat.mod_lt _ (by decide)⟩

theorem clampWindow_of_inRange {w : Window} (h : WindowInRange w) : clampWindow w = w := by
  rw [clampWindow, Nat.mod_eq_of_lt h.1, Nat.mod_eq_of_lt h.2]

theorem clampRule_inRange (r : GovernorRule) : RuleInRange (clampRule r) := by
  rw [clampRule_eq, RuleInRange]
  by_cases h : r.source = 0
  · simp only [if_pos h]
    exact ⟨by omega, .inl ⟨trivial, by omega⟩⟩
  · simp only [if_neg h]
    exact ⟨by omega, .inr ⟨trivial, by omega⟩⟩

theorem clampRule_of_inRange {r : GovernorRule} (h : RuleInRange r) : clampRule r = r := by
  obtain ⟨hkeep, ⟨hsource, hthreshold⟩ | ⟨hsource, hthreshold⟩⟩ := h
  · rw [clampRule, if_pos hsource, clampNat_of_range hthreshold, clampNat_of_range hkeep]
  · rw [clampRule, if_neg (by omega), clampNat_of_range ⟨Nat.zero_le _, hthreshold⟩, clampNat_of_range hkeep, ← hsource]

theorem tieClass_clampClass_inRange (w : WireClass) : ClassInRange (tieClass (clampClass w)) := by
  rw [tieClass_clampClass]
  simp only [ClassInRange]
  omega

theorem clampClass_of_inRange {w : WireClass} (h : ClassInRange w) : clampClass w = w := by
  obtain ⟨hradius, hnominal, -, hwear, hstagger⟩ := h
  rw [clampClass, clampNat_of_range hradius, clampNat_of_range hnominal,
    clampNat_of_range ⟨Nat.zero_le _, hwear.trans hnominal.2⟩, clampNat_of_range ⟨Nat.zero_le _, hstagger⟩]

theorem tieClass_of_inRange {w : WireClass} (h : ClassInRange w) : tieClass w = w := by
  obtain ⟨-, -, hradius, hwear, -⟩ := h
  simp only [tieClass, Nat.max_eq_left hradius, Nat.min_eq_left hwear]

/-- A band whose ends are clamped lies the right way round once it is tied (R199). -/
theorem tied_band {low high : Nat} (hlow : 1 ≤ low ∧ low ≤ 4095) (hhigh : 1 ≤ high ∧ high ≤ 4095) :
    1 ≤ (if high ≤ low then 1 else low)
      ∧ (if high ≤ low then 1 else low) < (if high ≤ low then 4095 else high)
      ∧ (if high ≤ low then 4095 else high) ≤ 4095 := by
  by_cases h : high ≤ low
  · simp only [if_pos h]
    decide
  · simp only [if_neg h]
    omega

/-- Whatever the memory gave, the fields come into their ranges and are tied (R198, R199). -/
theorem tieStartup_clampStartup_inRange (c : Startup) : FieldsInRange (tieStartup (clampStartup c)) where
  mountOffset := by
    show -1500000 ≤ clampInt _ _ _ ∧ clampInt _ _ _ ≤ 1500000
    rw [clampInt_eq (by decide)]
    omega
  refHeight := (clampNat_range (Nat.zero_le 4000) c.refHeight).2
  pitch := clampNat_range (show 1 ≤ 64 by decide) c.pitch
  exposure := clampNat_range (show 5 ≤ 40 by decide) c.exposure
  slot := (clampNat_range (Nat.zero_le 3) c.slot).2
  band := tied_band (clampNat_range (by decide) c.bandLow) (clampNat_range (by decide) c.bandHigh)
  thresholds := by
    have hdet := clampNat_range (show 1 ≤ 4095 by decide) c.tDet
    have hface := clampNat_range (show 1 ≤ 4095 by decide) c.tFace
    simp only [tieStartup, clampStartup]
    omega
  stray := clampNat_range (show 1 ≤ 4095 by decide) c.tStray
  windows := List.forall_mem_map.mpr fun w _ => clampWindow_inRange w
  rules := List.forall_mem_map.mpr fun r _ => clampRule_inRange r
  classes := List.forall_mem_map.mpr (List.forall_mem_map.mpr fun w _ => tieClass_clampClass_inRange w)

theorem map_eq_self {α : Type} {f : α → α} {l : List α} (h : ∀ x ∈ l, f x = x) : l.map f = l :=
  (List.map_congr_left h).trans (List.map_id l)

/-- Fields in range are not clamped (R198). -/
theorem clampStartup_of_inRange {c : Startup} (h : FieldsInRange c) : clampStartup c = c := by
  obtain ⟨hlow, hband, hhigh⟩ := h.band
  obtain ⟨hdet, hface, hface'⟩ := h.thresholds
  rw [clampStartup, clampInt_of_range h.mountOffset, clampNat_of_range ⟨Nat.zero_le _, h.refHeight⟩,
    clampNat_of_range h.pitch, clampNat_of_range h.exposure, clampNat_of_range ⟨Nat.zero_le _, h.slot⟩,
    clampNat_of_range ⟨hlow, by omega⟩, clampNat_of_range ⟨by omega, hhigh⟩, clampNat_of_range ⟨hdet, by omega⟩,
    clampNat_of_range ⟨by omega, hface'⟩, clampNat_of_range h.stray,
    map_eq_self fun w hw => clampWindow_of_inRange (h.windows w hw),
    map_eq_self fun r hr => clampRule_of_inRange (h.rules r hr),
    map_eq_self fun w hw => clampClass_of_inRange (h.classes w hw)]

/-- Fields that are tied already are not changed (R199). -/
theorem tieStartup_of_inRange {c : Startup} (h : FieldsInRange c) : tieStartup c = c := by
  obtain ⟨-, hband, -⟩ := h.band
  obtain ⟨-, hface, -⟩ := h.thresholds
  rw [tieStartup, if_neg (Nat.not_le.mpr hband), if_neg (Nat.not_le.mpr hband), Nat.max_eq_left hface,
    map_eq_self fun w hw => tieClass_of_inRange (h.classes w hw)]

/-- R198 and R199 change a field exactly when the block they leave is another one: what R199 leaves is in the ranges of
R198, so it takes back no change of R198. -/
theorem wasClamped_iff (block : List Byte) :
    wasClamped block = true ↔ tieStartup (clampStartup (startupOf block)) ≠ startupOf block := by
  have hclamped (h : tieStartup (clampStartup (startupOf block)) = startupOf block) :
      clampStartup (startupOf block) = startupOf block :=
    clampStartup_of_inRange (h ▸ tieStartup_clampStartup_inRange _)
  simp only [wasClamped, Bool.or_eq_true, bne_iff_ne]
  constructor
  · rintro (hc | ht) h
    · exact hc (hclamped h)
    · exact ht (h.trans (hclamped h).symm)
  · intro h
    by_cases hc : clampStartup (startupOf block) = startupOf block
    · exact .inr (by rwa [hc] at h ⊢)
    · exact .inl hc

/-! ### Trimming -/

/-- The cells that the enabled windows of a list cover (R200). -/
def coveredCells (ws : List Window) : Nat := ((ws.filter (·.enabled)).map windowCoverage).sum

theorem coveredCells_cons (w : Window) (ws : List Window) :
    coveredCells (w :: ws) = (if w.enabled then windowCoverage w else 0) + coveredCells ws := by
  unfold coveredCells
  cases h : w.enabled <;> simp [h]

/-- A window stays enabled when its coverage fits on top of a running sum (R200). -/
def staysEnabled (sum : Nat) (w : Window) : Bool := w.enabled && decide (sum + windowCoverage w ≤ 1536)

theorem staysEnabled_iff {sum : Nat} {w : Window} :
    staysEnabled sum w = true ↔ w.enabled = true ∧ sum + windowCoverage w ≤ 1536 := by
  rw [staysEnabled, Bool.and_eq_true, decide_eq_true_iff]

/-- The mask bits that R198 clears are not counted (R200). -/
theorem windowCoverage_clampWindow (w : Window) : windowCoverage (clampWindow w) = windowCoverage w := by
  refine congrArg (fun n => 2 ^ (11 - n)) (List.countP_congr fun k hk => ?_)
  have hlow : k < 11 := List.mem_range.mp hk
  rw [clampWindow, show 2048 = 2 ^ 11 by decide, Nat.testBit_mod_two_pow, decide_eq_true hlow, Bool.true_and]

theorem trimWindows_cons (sum : Nat) (w : Window) (ws : List Window) :
    trimWindows sum (w :: ws) =
      { w with enabled := staysEnabled sum w }
        :: trimWindows (sum + if staysEnabled sum w then windowCoverage w else 0) ws := by
  obtain ⟨enabled, base, mask⟩ := w
  rw [trimWindows]
  cases enabled with
  | false => rfl
  | true =>
    by_cases h : sum + windowCoverage ⟨true, base, mask⟩ ≤ 1536 <;> simp [staysEnabled, h]

theorem trimWindows_length (sum : Nat) (ws : List Window) : (trimWindows sum ws).length = ws.length := by
  induction ws generalizing sum with
  | nil => rfl
  | cons w ws ih => rw [trimWindows_cons, List.length_cons, List.length_cons, ih]

/-- Each window is left as it was but for its enable bit, which stays set when its coverage fits on top of that of those
before it that were left enabled (R200). -/
theorem trimWindows_getElem? {ws : List Window} {k : Nat} {w : Window} (sum : Nat) (h : ws[k]? = some w) :
    (trimWindows sum ws)[k]? =
      some { w with enabled := staysEnabled (sum + coveredCells ((trimWindows sum ws).take k)) w } := by
  induction ws generalizing sum k with
  | nil => cases h
  | cons v ws ih =>
    rw [trimWindows_cons]
    cases k with
    | zero =>
      obtain rfl : v = w := Option.some.inj h
      rfl
    | succ k =>
      rw [List.getElem?_cons_succ, List.take_succ_cons, coveredCells_cons, ← Nat.add_assoc]
      exact ih _ h

theorem trimWindows_inRange {ws : List Window} (sum : Nat) (h : ∀ w ∈ ws, WindowInRange w) :
    ∀ w ∈ trimWindows sum ws, WindowInRange w := by
  induction ws generalizing sum with
  | nil => exact h
  | cons v ws ih =>
    obtain ⟨hv, hws⟩ := List.forall_mem_cons.mp h
    rw [trimWindows_cons]
    exact List.forall_mem_cons.mpr ⟨hv, ih _ hws⟩

/-- The running sum never passes 1,536 cells (R200). -/
theorem trimWindows_covered (ws : List Window) {sum : Nat} (h : sum ≤ 1536) :
    sum + coveredCells (trimWindows sum ws) ≤ 1536 := by
  induction ws generalizing sum with
  | nil => exact h
  | cons w ws ih =>
    rw [trimWindows_cons, coveredCells_cons, ← Nat.add_assoc]
    refine ih ?_
    cases hw : staysEnabled sum w with
    | false => exact h
    | true => exact (staysEnabled_iff.mp hw).2

/-- Windows that cover no more than 1,536 cells are all left as they are (R200). -/
theorem trimWindows_of_fits {ws : List Window} {sum : Nat} (h : sum + coveredCells ws ≤ 1536) :
    trimWindows sum ws = ws := by
  induction ws generalizing sum with
  | nil => rfl
  | cons w ws ih =>
    rw [coveredCells_cons, ← Nat.add_assoc] at h
    have hstays : staysEnabled sum w = w.enabled := by
      cases hw : w.enabled with
      | false => rw [staysEnabled, hw, Bool.false_and]
      | true =>
        rw [hw, if_pos rfl] at h
        rw [staysEnabled, hw, Bool.true_and, decide_eq_true (by omega)]
    rw [trimWindows_cons, hstays, ih h]

theorem wasTrimmed_iff (block : List Byte) :
    wasTrimmed block = true ↔
      (acceptedOf block).windows ≠ (tieStartup (clampStartup (startupOf block))).windows := by
  simp only [wasTrimmed, bne_iff_ne, acceptedOf]
  refine not_congr ⟨fun h => congrArg _ h, fun h => ?_⟩
  rw [trimStartup]
  rw [show trimWindows 0 _ = _ from h]

/-! ### The accepted block -/

/-- The fields as R198 and R199 leave them, every one at the nearer end of its range and then tied. -/
theorem tieStartup_clampStartup (c : Startup) : tieStartup (clampStartup c) =
    let near (lo hi x : Nat) : Nat := max lo (min hi x)
    let low := near 1 4095 c.bandLow
    let high := near 1 4095 c.bandHigh
    { c with
      mountOffset := max (-1500000) (min 1500000 c.mountOffset), refHeight := near 0 4000 c.refHeight
      pitch := near 1 64 c.pitch, exposure := near 5 40 c.exposure, slot := near 0 3 c.slot
      bandLow := if high ≤ low then 1 else low, bandHigh := if high ≤ low then 4095 else high
      tDet := near 1 4095 c.tDet, tFace := max (near 1 4095 c.tFace) (near 1 4095 c.tDet)
      tStray := near 1 4095 c.tStray
      windows := c.windows.map clampWindow, rules := c.rules.map clampRule
      classes := c.classes.map (tieClass ∘ clampClass) } := by
  simp only [tieStartup, clampStartup, List.map_map, clampInt_eq (show (-1500000 : Int) ≤ 1500000 by decide),
    clampNat_eq (show 1 ≤ 4095 by decide), clampNat_eq (show 1 ≤ 64 by decide), clampNat_eq (show 5 ≤ 40 by decide),
    clampNat_eq (Nat.zero_le _)]

section
variable (block : List Byte)

theorem acceptedOf_fieldsInRange : FieldsInRange (acceptedOf block) :=
  have h := tieStartup_clampStartup_inRange (startupOf block)
  { h with windows := trimWindows_inRange 0 h.windows }

theorem acceptedOf_covered : coveredCells (acceptedOf block).windows ≤ 1536 := by
  have h := trimWindows_covered (tieStartup (clampStartup (startupOf block))).windows (Nat.zero_le 1536)
  rwa [Nat.zero_add] at h

/-- A window of the accepted block: cleared above bit 10, and disabled when it does not fit on top of those before it
(R198, R200). -/
theorem acceptedOf_window {k : Nat} {w : Window} (h : (startupOf block).windows[k]? = some w) :
    (acceptedOf block).windows[k]? =
      some { clampWindow w with
        enabled := staysEnabled (coveredCells ((acceptedOf block).windows.take k)) (clampWindow w) } := by
  have hclamped : (tieStartup (clampStartup (startupOf block))).windows[k]? = some (clampWindow w) := by
    show ((startupOf block).windows.map clampWindow)[k]? = _
    rw [List.getElem?_map, h]
    rfl
  have hkept := trimWindows_getElem? 0 hclamped
  rwa [Nat.zero_add] at hkept

/-- A block whose fields are in range, tied and trimmed already is accepted as it is, and no flag is raised. -/
theorem acceptedOf_of_inRange (hfields : FieldsInRange (startupOf block))
    (hfits : coveredCells (startupOf block).windows ≤ 1536) :
    acceptedOf block = startupOf block ∧ wasClamped block = false ∧ wasTrimmed block = false := by
  have htied : tieStartup (clampStartup (startupOf block)) = startupOf block := by
    rw [clampStartup_of_inRange hfields, tieStartup_of_inRange hfields]
  have haccepted : acceptedOf block = startupOf block := by
    rw [acceptedOf, htied, trimStartup, trimWindows_of_fits (by rwa [Nat.zero_add])]
  refine ⟨haccepted, ?_, ?_⟩
  · rw [← Bool.not_eq_true, wasClamped_iff, not_not]
    exact htied
  · rw [← Bool.not_eq_true, wasTrimmed_iff, not_not, haccepted, htied]

end

/-- Settles O8: the fields come into range and are tied, and the trimming touches the enable bits alone. -/
theorem acceptedBlockInRange : Obligations.AcceptedBlockInRange := by
  intro block inRange raw near low high masked class' rule' tied
  have htied : tieStartup (clampStartup raw) = tied := by
    rw [tieStartup_clampStartup, funext clampRule_eq,
      show tieClass ∘ clampClass = class' from funext tieClass_clampClass]
    rfl
  have h := acceptedOf_fieldsInRange block
  refine ⟨⟨h.mountOffset, h.refHeight, h.pitch, h.exposure, h.slot, h.band, h.thresholds, h.stray,
    ⟨trimWindows_length _ _, h.windows⟩, acceptedOf_covered block, ⟨rfl, h.rules⟩, ⟨rfl, h.classes⟩⟩, ?_, ?_, ?_, ?_, ?_⟩
  · rintro ⟨hmount, hheight, hpitch, hexposure, hslot, hband, hthresholds, hstray, ⟨-, hwindows⟩, hfits, ⟨-, hrules⟩, -,
      hclasses⟩
    exact acceptedOf_of_inRange block
      ⟨hmount, hheight, hpitch, hexposure, hslot, hband, hthresholds, hstray, hwindows, hrules, hclasses⟩ hfits
  · rw [← htied]
    rfl
  · intro k w hk
    refine ⟨_, acceptedOf_window block hk, ?_⟩
    rw [staysEnabled_iff, windowCoverage_clampWindow]
    rfl
  · rw [← htied]
    exact wasClamped_iff block
  · rw [← htied]
    exact wasTrimmed_iff block

end Sys2Proof.Machine
end

section
/-! SUPPORT. Reset, LOADING and CONFIG_BAD: what the commands of start-up make of the part (Chapter 11). -/

namespace Sys2Proof.Machine

/-! ### Reset -/

/-- Settles O3: the fields by the reset state of each block, the tables because each place of them holds nothing. -/
theorem resetLeavesSpecValues : Obligations.ResetLeavesSpecValues := by
  have hentry (i : Nat) : State.reset.tt.entry i = none := by
    cases h : State.reset.tt.entry i with
    | none => rfl
    | some e => cases List.eq_of_mem_replicate (entry_mem h)
  have hneighbour (station : Nat) : State.reset.neighbour station = .reset :=
    (neighbour_mem State.reset station).elim id List.eq_of_mem_replicate
  refine ⟨fun _ => rfl, rfl, rfl, rfl, rfl, rfl, rfl, rfl, rfl, rfl, rfl, rfl, List.length_replicate,
    fun _ => List.eq_of_mem_replicate, rfl, hentry, rfl, rfl, fun station => ?_, rfl, rfl, rfl, rfl, rfl, rfl, rfl, rfl,
    rfl, rfl, rfl, rfl, rfl, rfl, rfl⟩
  rw [hneighbour]
  exact ⟨rfl, rfl, rfl, rfl, rfl⟩

/-- Settles O60: each invariant as it holds right after RESET, here with no command waiting. -/
theorem resetMeetsInvariants : Obligations.ResetMeetsInvariants := by
  obtain ⟨hlink, hfront, hsized⟩ := reset_capacities []
  obtain ⟨hkeep, hslot⟩ := reset_inRange []
  have hstrips : State.reset.StripsBounded := (stripsBounded_iff _).mpr fun b hb => absurd hb (reset_holds [] b)
  exact ⟨hlink, hfront, hsized, hkeep, hslot, laserSafe_of_low rfl, hstrips, (banksOwned_iff _).mpr (reset_owned []),
    reset_tagsOwned []⟩

/-! ### The commands of LOADING and CONFIG_BAD -/

section
variable {s : State}

theorem exec_resetEnd (h : s.src.part = .held) (straps : BitVec 3) :
    exec (.resetEnd straps) s =
      .next (s.setSrc { s.src with part := .loading .waiting, station := straps.toNat + 1 }) := by
  show execResetEnd straps s = _
  unfold execResetEnd
  simp only [catchUp_of_not_operating (s := s) (by rw [h]; rfl), h]

theorem exec_configReadStart (h : s.src.part = .loading .waiting) :
    exec .configReadStart s =
      .next (s.setSrc { s.src with part := .loading (.reading spiReadCommand), cfgCs := .low }) := by
  show execConfigReadStart s = _
  unfold execConfigReadStart
  simp only [catchUp_of_not_operating (s := s) (by rw [h]; rfl), h]

theorem exec_configReadDone {sent : List Pin} (h : s.src.part = .loading (.reading sent)) (levels : List Pin) :
    exec (.configReadDone levels) s =
      .next (s.setSrc { s.src with part := .loading (.checking (clockedIn levels)), cfgCs := .high }) := by
  show execConfigReadDone levels s = _
  unfold execConfigReadDone
  simp only [catchUp_of_not_operating (s := s) (by rw [h]; rfl), h]

theorem exec_loadingEnd {block : List Byte} (h : s.src.part = .loading (.checking block)) :
    exec .loadingEnd s = .next (endLoading block s) := by
  show execLoadingEnd s = _
  unfold execLoadingEnd
  simp only [catchUp_of_not_operating (s := s) (by rw [h]; rfl), h]

theorem exec_headstateTimer {block : List Byte} (h : s.src.part = .configBad block) :
    exec .headstateTimer s = .next (headstateDue s) := by
  show execHeadstateTimer s = _
  unfold execHeadstateTimer
  simp only [catchUp_of_not_operating (s := s) (by rw [h]; rfl), h]

end

/-- Settles O4: three straps spell 0 to 7. -/
theorem resetEndReadsStraps : Obligations.ResetEndReadsStraps := fun straps _ h =>
  ⟨exec_resetEnd h straps, Nat.succ_pos _, straps.isLt⟩

/-! ### The start-up memory -/

/-- A bit shifted into a byte moves the others one place up. -/
theorem getLsbD_succ_shiftIn (b : Byte) (p : Prop) [Decidable p] (i : Nat) (h : i + 1 < 8) :
    ((b <<< 1) ||| (if p then 1 else 0)).getLsbD (i + 1) = b.getLsbD i := by
  have hlow : (if p then 1 else 0 : Byte).getLsbD (i + 1) = false := by
    by_cases hp : p <;> simp [hp]
  rw [BitVec.getLsbD_or, hlow, Bool.or_false, BitVec.getLsbD_shiftLeft, Nat.add_sub_cancel]
  simp [h]

/-- A bit shifted into a byte is its lowest. -/
theorem getLsbD_zero_shiftIn (b : Byte) (p : Prop) [Decidable p] :
    ((b <<< 1) ||| (if p then 1 else 0)).getLsbD 0 = decide p := by
  by_cases hp : p <;> simp [hp]

/-- Of eight bits shifted in one after the other the first is the most significant (R195). -/
theorem getLsbD_foldl_shiftIn (p : Nat → Prop) [DecidablePred p] {j : Nat} (h : j < 8) :
    ([0, 1, 2, 3, 4, 5, 6, 7].foldl (fun (b : Byte) j => (b <<< 1) ||| (if p j then 1 else 0)) 0).getLsbD (7 - j) =
      decide (p j) := by
  simp only [List.foldl_cons, List.foldl_nil]
  interval_cases j <;>
    simp only [Nat.reduceSub, Nat.reduceAdd, Nat.reduceLT, getLsbD_succ_shiftIn, getLsbD_zero_shiftIn]

theorem clockedIn_length (levels : List Pin) : (clockedIn levels).length = 128 := by
  rw [clockedIn, List.length_map, List.length_range]

theorem clockedIn_getElem (levels : List Pin) {k : Nat} (h : k < (clockedIn levels).length) :
    (clockedIn levels)[k] = clockedByte levels k := by
  simp only [clockedIn, List.getElem_map, List.getElem_range]

/-- A byte that is clocked in has its bits from its eight levels, the first the most significant (R195). -/
theorem getLsbD_clockedByte {levels : List Pin} {k j : Nat} (hj : j < 8) (hread : 8 * k + j < levels.length) :
    (clockedByte levels k).getLsbD (7 - j) = true ↔ levels[8 * k + j]? = some .high := by
  have hbit := getLsbD_foldl_shiftIn (fun j => levels.getD (8 * k + j) .high = .high) hj
  rw [clockedByte, hbit, decide_eq_true_iff, List.getD_eq_getElem _ _ hread, List.getElem?_eq_getElem hread,
    Option.some.injEq]

/-- Settles O5: what is sent is the command of the read, and each byte taken has its bits from its eight levels. -/
theorem configReadDrivesMemory : Obligations.ConfigReadDrivesMemory := by
  refine ⟨fun s h => exec_configReadStart h, fun levels sent s h hlen => ⟨clockedIn levels, exec_configReadDone h levels,
    clockedIn_length levels, fun k b hb j hj => ?_⟩⟩
  obtain ⟨hk, rfl⟩ := List.getElem?_eq_some_iff.mp hb
  rw [clockedIn_getElem]
  rw [clockedIn_length] at hk
  exact getLsbD_clockedByte hj (by omega)

/-! ### The end of LOADING -/

section
variable {s : State}

/-- A HEADSTATE that falls due joins an empty queue and is contended for in the same step (R183, log 12). -/
theorem headstateDue_empty (hempty : s.lc.txQueue = []) (hidle : s.lc.tx = .idle) :
    headstateDue s =
      { s with
        du := { s.du with mark := none }
        lc := { s.lc with txQueue := [.headstate (headstateOf s)], tx := .contending false, sticky := 0 } } := by
  have hnone : s.lc.headstates = 0 := by
    rw [LinkController.headstates, hempty]
    rfl
  have hroom : s.lc.txQueue.length < 12 := by
    rw [hempty]
    decide
  rw [headstateDue_queues (not_sendsHeadstate_of_count hnone),
    queueHeadstate_joins (oldest_headstate_none_of_count hnone) hroom, if_pos hidle, hempty]
  rfl

theorem headstateOf_configBad {block : List Byte} (h : s.src.part = .configBad block) :
    headstateOf s =
      { mountOffset := intOf (field block 0 3), slot := (block.getD 7 0).toNat % 4, settling := false
        keep := 8, run := 0, runState := .idle, blockSeq := 0, frameIndex := 0, distance := s.du.distance
        presence := 0, attitude := .lost, entries := 0
        sticky := s.lc.sticky ||| StickyFlag.configBad.mask, mark := none } := by
  unfold headstateOf State.stickyCarried
  rw [h]
  rfl

theorem raiseIf_eq (c : Bool) (f : StickyFlag) :
    s.raiseIf c f = s.setLc { s.lc with sticky := s.lc.sticky ||| if c then f.mask else 0 } := by
  cases c with
  | false =>
    have hkept : s.lc.sticky ||| 0 = s.lc.sticky := BitVec.or_zero
    simp only [Bool.false_eq_true, if_false, hkept]
    rfl
  | true => rfl

/-- LOADING ends on a good block with the block accepted and the flags of R198 to R200 raised (R196, R201). -/
theorem endLoading_good {block : List Byte} (hblank : isBlank block = false) (hcrc : crcGood block = true) :
    endLoading block s = headstateDue ((acceptBlock (acceptedOf block) s).setLc { s.lc with
      sticky := s.lc.sticky ||| (if wasClamped block then StickyFlag.configClamped.mask else 0)
        ||| (if wasTrimmed block then StickyFlag.windowsTrimmed.mask else 0) }) := by
  rw [endLoading, if_pos (by rw [blockGood, hblank, hcrc]; rfl), raiseIf_eq, raiseIf_eq]
  rfl

theorem endLoading_bad {block : List Byte} (h : isBlank block = true ∨ crcGood block = false) :
    endLoading block s = headstateDue (s.setSrc { s.src with part := .configBad block }) := by
  refine if_neg ?_
  rcases h with h | h <;> simp [blockGood, h]

/-- The accepted slot is announced when no slot is pending (R32, R201). -/
theorem acceptBlock_announced (cfg : Startup) (h : s.ec.pendingSlot = none) :
    (acceptBlock cfg s).ec.announced = cfg.slot := by
  show s.ec.pendingSlot.getD cfg.slot = _
  rw [h]
  rfl

end

/-- Settles O6: the block accepted, the flags raised, and then the HEADSTATE of an OPERATING part at an empty queue. -/
theorem loadingEndAcceptsGoodBlock : Obligations.LoadingEndAcceptsGoodBlock := by
  intro block s hpart hblank hcrc hempty hidle hslot
  rw [exec_loadingEnd hpart, endLoading_good hblank hcrc, headstateDue_empty,
    headstateOf_operating (cfg := acceptedOf block) rfl, State.setLc_ec,
    acceptBlock_announced _ hslot]
  · rfl
  · exact hempty
  · exact hidle

/-- Settles O7: the HEADSTATE of a CONFIG_BAD part, by what the queue holds. -/
theorem configBadReports : Obligations.ConfigBadReports := by
  intro block s bad reported
  refine ⟨fun hempty hidle => ⟨fun hpart hbad => ?_, fun hpart => ?_⟩, fun hpart hsends => ?_,
    fun i g hpart hone hi hsent => ?_⟩
  · rw [exec_loadingEnd hpart, endLoading_bad hbad, headstateDue_empty, headstateOf_configBad rfl]
    · rfl
    · exact hempty
    · exact hidle
  · rw [exec_headstateTimer hpart, headstateDue_empty hempty hidle, headstateOf_configBad hpart]
  · rw [exec_headstateTimer hpart, headstateDue_waits hsends]
    rfl
  · rw [exec_headstateTimer hpart, headstateDue_queues (not_sendsHeadstate_of_waiting hone hi hsent),
      queueHeadstate_replaces hi (oldest_headstate hone hi hsent), headstateOf_configBad hpart]
    rfl

end Sys2Proof.Machine
end

section
/-! ## The step

What `step` does for each shape of the queue of commands; no command is opened. -/

namespace Sys2Proof.Machine

variable {s : State}

/-- The command at the front leaves the queue before it runs. -/
theorem step_of_pending_cons {c : Instr} {rest : List Instr} (h : s.pending = c :: rest) :
    step s = exec c (s.setPending rest) := by
  rw [step, h]

/-- With no command waiting the part idles (log 1). -/
theorem step_of_pending_nil (h : s.pending = []) : step s = .next s := by
  rw [step, h]

/-- Settles O1, by the two shapes of the queue. -/
theorem stepTakesFrontCommand : Obligations.StepTakesFrontCommand :=
  ⟨fun _ _ _ => step_of_pending_cons, fun _ => step_of_pending_nil⟩

end Sys2Proof.Machine
end
